-- ==== Sys2Proof/Word.lean ====
section
/-! DEFINITION. The machine's plain words and names: 32-bit values, bytes, lanes, directions and the
opaque handles of a port (10_state R9, R10, R41). -/

namespace Sys2Proof

/-- A 32-bit value of a register, an address or bus data (00_scope R7: `W` = 32). -/
abbrev Word := BitVec 32

/-- One byte of a ring or of the serial line. -/
abbrev Byte := BitVec 8

/-- A lane index. `N` is a parameter and at most 32 (R7, decision D1): lane `n` exists when `n < N`
(`Params.hasLane`). -/
abbrev Lane := Fin 32

/-- The `LANE` field of a command word, five bits (30_encoding R96): it may name no existing lane. -/
abbrev LaneField := Fin 32

/-- A direction (R9). -/
inductive Dir where
  /-- transmit -/
  | tx
  /-- receive -/
  | rx
deriving DecidableEq, Repr, Inhabited

/-- The owner handle of R41, "opaque". DESIGN CHOICE (log 18): handles are told apart by a number;
nothing but equality and passing back is done with them. -/
structure Owner where
  /-- the handle's number -/
  id : Nat
deriving DecidableEq, Repr, Inhabited

/-- The completion callback of R41, "opaque" (log 18): the only operation on it is invoking it. -/
structure Callback where
  /-- the callback's number -/
  id : Nat
deriving DecidableEq, Repr, Inhabited

/-- Byte order of a register's four bytes for a host that reads it byte-wise (R7, `REG_ENDIAN`). -/
inductive Endian where
  /-- least significant byte first -/
  | little
  /-- most significant byte first -/
  | big
deriving DecidableEq, Repr, Inhabited

/-- Every lane index in ascending order, whether or not the lane exists. -/
def laneIndices : List Lane :=
  [0, 1, 2, 3, 4, 5, 6, 7, 8, 9, 10, 11, 12, 13, 14, 15, 16, 17, 18, 19, 20, 21, 22, 23, 24, 25, 26, 27,
    28, 29, 30, 31]

end Sys2Proof
end

