-- ==== Sys2Proof/Config.lean ====
section
/-! DEFINITION. What an implementation fixes (the parameters of 00_scope R7), what the outside world
supplies (packets on the two interfaces, lane-agent steps, draws), and the free values: constants
with no body, of which nothing can be proved. -/

namespace Sys2Proof

/-- The implementation parameters of R7 (log 3). A power of two is stored as its exponent, so that every
value of this type is a legal parameter set: `CAP = 2^(k+1)` with `k < 31` lies in `2 .. 2^31`,
`BUF_ALIGN = 2^k`, `REFILL_UNIT = k + 1`. What belongs to a lane is indexed by all 32 lane numbers; the
entries of the numbers `N` and above stand for nothing. -/
structure Params where
  /-- `N ≤ 32`, the lanes per direction (R7, D1) -/
  numLanes : Fin 33
  /-- `CAP_TX = 2^(capTxLog + 1)` -/
  capTxLog : Fin 31
  /-- `CAP_RX = 2^(capRxLog + 1)` -/
  capRxLog : Fin 31
  /-- `RX_BUF_PHYS[n]` -/
  rxBufPhys : Vector Word 32
  /-- `REG_BASE` -/
  regBase : Word
  /-- `SIZE_CLASS` -/
  sizeClass : Word
  /-- `TIMEOUT_VALUE` -/
  timeoutValue : Word
  /-- `REFILL_UNIT - 1` (R7: `REFILL_UNIT ≥ 1`) -/
  refillPred : Nat
  /-- `LOW_WATER` -/
  lowWater : Nat
  /-- `HW_MAY_CORRUPT` -/
  hwMayCorrupt : Bool
  /-- `REG_ENDIAN` -/
  regEndian : Endian
  /-- `BUF_ALIGN = 2^bufAlignLog` -/
  bufAlignLog : Nat
deriving DecidableEq, Repr, Inhabited

/-- Lane `n` exists: `n < N` (R9). -/
def Params.hasLane (c : Params) (n : Lane) : Bool := decide (n.val < c.numLanes.val)

/-- The lanes in ascending order. -/
def Params.lanes (c : Params) : List Lane := laneIndices.filter c.hasLane

/-- The width of a register access on the bus (20_memory R67). -/
inductive AccessWidth where
  | w8
  | w16
  | w32
  | w64
deriving DecidableEq, Repr, Inhabited

/-- The operand record every command carries (30_encoding R100). -/
structure OperandRecord where
  owner : Owner
  cb : Callback
  val : Word
  addr : Word
  count : Nat
  data : List Byte
deriving DecidableEq, Repr, Inhabited

/-- What arrives on one of the block's two interfaces (R90): a register access with its 13-bit access
word (R91), its width (R67) and its data value (0 for a read), or a 32-bit command word (R96) with
its operand record (R100). -/
inductive Packet where
  | mmio (width : AccessWidth) (word : BitVec 13) (data : Word)
  | cmd (word : BitVec 32) (operands : OperandRecord)
deriving DecidableEq, Repr, Inhabited

/-- One step of an agent other than the control unit (41_engine). A step whose enabling condition
does not hold when its turn comes has no effect (log 5). -/
inductive LaneStep where
  /-- receive byte step of lane `(RX, n)`, the line offering `b` (R162) -/
  | rxByte (n : Lane) (b : Byte)
  /-- transmit byte step of lane `(TX, n)` (R164) -/
  | txByte (n : Lane)
  /-- status-set step of lane `(d, n)` (R166); for RX this is also the idle timer (R169) -/
  | status (d : Dir) (n : Lane)
  /-- hardware-fault step: the hardware pointer of `(d, n)` takes the drawn value `v` (R172) -/
  | corrupt (d : Dir) (n : Lane) (v : Word)
deriving DecidableEq, Repr, Inhabited

/-- Free value (log 3): the parameters of the implementation at hand. -/
opaque Config.params : Params

/-- `N` of the block as the source describes it, the default of D1. -/
def Config.defaultLanes : Fin 33 := 12

/-- Free value (log 6): the interleaving of a run from reset. -/
opaque Config.laneSchedule : List (List LaneStep)

/-- Free value (log 7): what bits 31:N of a bitmask register read as, at the `k`-th draw (R38). -/
opaque Config.reservedBits (k : Nat) : BitVec 32

/-- Free value (log 8): how many bytes the consumer stream takes at the `k`-th draw (R252), before
the bound `acc ≤ avail` is applied. -/
opaque Config.acceptedBytes (k : Nat) : Nat

/-- Free value (log 9): what the port's outgoing stream offers at the `k`-th draw (R256). -/
opaque Config.outgoingStream (k : Nat) : Nat × List (BitVec 8)

/-- Free value (log 9): byte `i` of an operand record or stream offer that is shorter than R100 and
R256 ask for. -/
opaque Config.missingByte (i : Nat) : BitVec 8

end Sys2Proof
end

