-- ==== Sys2Proof/Syntax.lean ====
section
/-! DEFINITION. The instructions: one constructor per row of spec/opcode_table.json, in its order. -/

namespace Sys2Proof

/-- The 32 register accesses (30_encoding R91 to R93; 40_registers) and the 15 commands (R96, R97;
42, 43 and 44). `v` is the data of a write. A command's lane is the `LANE` field, which may name no
existing lane (R98). -/
inductive Instr where
  | ld32TxEn
  | st32TxEn (v : Word)
  | ld32RxEn
  | st32RxEn (v : Word)
  | ld32BufSz
  | st32BufSz (v : Word)
  | ld32RxTimeout
  | st32RxTimeout (v : Word)
  | ld32TxRst
  | st32TxRst (v : Word)
  | ld32RxRst
  | st32RxRst (v : Word)
  | ld32TxIer
  | st32TxIer (v : Word)
  | ld32TxIsr
  | st32TxIsr (v : Word)
  | ld32RxIer
  | st32RxIer (v : Word)
  | ld32RxIsr
  | st32RxIsr (v : Word)
  | ld32TxRd (n : Lane)
  | st32TxRd (n : Lane) (v : Word)
  | ld32TxWr (n : Lane)
  | st32TxWr (n : Lane) (v : Word)
  | ld32TxBase (n : Lane)
  | st32TxBase (n : Lane) (v : Word)
  | ld32RxRd (n : Lane)
  | st32RxRd (n : Lane) (v : Word)
  | ld32RxWr (n : Lane)
  | st32RxWr (n : Lane) (v : Word)
  | ld32RxBase (n : Lane)
  | st32RxBase (n : Lane) (v : Word)
  | attach
  | detach
  | claimTx (n : LaneField) (owner : Owner) (cb : Callback) (addr : Word)
  | claimRx (n : LaneField) (owner : Owner) (cb : Callback)
  | trigger (d : Dir) (n : LaneField)
  | stop (d : Dir) (n : LaneField)
  | pause (d : Dir) (n : LaneField)
  | release (d : Dir) (n : LaneField)
  | updsw (d : Dir) (n : LaneField) (val : Word)
  | rdhw (d : Dir) (n : LaneField)
  | dispatch
  | rxdrain (n : LaneField)
  | txprod (n : LaneField) (count : Nat) (data : List Byte)
  | txcomp (n : LaneField)
  | work (d : Dir) (n : LaneField)
deriving DecidableEq, Repr

end Sys2Proof
end

