-- ==== Sys2Proof/Decode.lean ====
section
/-! DEFINITION. Decoding a packet (30_encoding), total and refusing by name; after it the encoder,
written from the same tables. -/

namespace Sys2Proof

/-- Why a packet is no instruction. -/
inductive DecodeError where
  /-- a register access whose width is not 32 bits (20_memory R67) -/
  | registerWidth
  /-- `off[1:0] ≠ 0` (R95) -/
  | misalignedRegister
  /-- an offset no register has (R95) -/
  | unmappedRegister
  /-- an illegal command word (R99, R101) -/
  | illegalCommand
deriving DecidableEq, Repr

/-- Field `W` of an access word (R91): true is a write. -/
def accessIsWrite (w : BitVec 13) : Bool := w.getLsbD 12

/-- Field `L` (R91): the register group, bits 11:5. -/
def accessGroup (w : BitVec 13) : Nat := w.toNat / 32 % 128

/-- Field `K` (R91): the byte offset in the group, bits 4:0. -/
def accessOffset (w : BitVec 13) : Nat := w.toNat % 32

/-- A read or a write, by field `W`. -/
def pickAccess (write : Bool) (read store : Instr) : Instr := if write then store else read

/-- Group 0 of R92. -/
def decodeGroup0 (write : Bool) (v : Word) : Nat → Option Instr
  | 0x00 => some (pickAccess write .ld32TxEn (.st32TxEn v))
  | 0x04 => some (pickAccess write .ld32RxEn (.st32RxEn v))
  | 0x08 => some (pickAccess write .ld32BufSz (.st32BufSz v))
  | 0x0C => some (pickAccess write .ld32RxTimeout (.st32RxTimeout v))
  | _ => none

/-- Group 1 of R92. -/
def decodeGroup1 (write : Bool) (v : Word) : Nat → Option Instr
  | 0x00 => some (pickAccess write .ld32TxRst (.st32TxRst v))
  | 0x04 => some (pickAccess write .ld32RxRst (.st32RxRst v))
  | 0x10 => some (pickAccess write .ld32TxIer (.st32TxIer v))
  | 0x14 => some (pickAccess write .ld32TxIsr (.st32TxIsr v))
  | 0x18 => some (pickAccess write .ld32RxIer (.st32RxIer v))
  | 0x1C => some (pickAccess write .ld32RxIsr (.st32RxIsr v))
  | _ => none

/-- The registers of lane `n` (R93). -/
def decodeLaneGroup (write : Bool) (n : Lane) (v : Word) : Nat → Option Instr
  | 0x00 => some (pickAccess write (.ld32TxRd n) (.st32TxRd n v))
  | 0x04 => some (pickAccess write (.ld32TxWr n) (.st32TxWr n v))
  | 0x08 => some (pickAccess write (.ld32TxBase n) (.st32TxBase n v))
  | 0x10 => some (pickAccess write (.ld32RxRd n) (.st32RxRd n v))
  | 0x14 => some (pickAccess write (.ld32RxWr n) (.st32RxWr n v))
  | 0x18 => some (pickAccess write (.ld32RxBase n) (.st32RxBase n v))
  | _ => none

/-- The register group `l` of R92 and R93: groups 0 and 1 are the global registers, group `n + 2` is
lane `n`, valid only when `n < N` (R94). -/
def decodeGroup (N : Fin 33) (write : Bool) (l : Nat) (v : Word) (k : Nat) : Option Instr :=
  if l = 0 then decodeGroup0 write v k
  else if l = 1 then decodeGroup1 write v k
  else if h : l - 2 < N.val then decodeLaneGroup write ⟨l - 2, by omega⟩ v k
  else none

/-- Decode a register access in the order of R94 (alignment first); the width is checked before
(log 13). -/
def decodeMmio (N : Fin 33) (width : AccessWidth) (w : BitVec 13) (v : Word) :
    Except DecodeError Instr :=
  if width ≠ .w32 then .error .registerWidth
  else if accessOffset w % 4 ≠ 0 then .error .misalignedRegister
  else
    match decodeGroup N (accessIsWrite w) (accessGroup w) v (accessOffset w) with
    | some i => .ok i
    | none => .error .unmappedRegister

/-- Field `OP` of a command word (R96). -/
def cmdOp (w : Word) : Nat := w.toNat % 16

/-- Field `D` (R96, R98). -/
def cmdDir (w : Word) : Dir := if w.getLsbD 4 then .rx else .tx

/-- Field `LANE` (R96, R98), bits 9:5. -/
def cmdLane (w : Word) : LaneField := ⟨w.toNat / 32 % 32, Nat.mod_lt _ (by decide)⟩

/-- Bits 31:10 (R96, R99). -/
def cmdReserved (w : Word) : Nat := w.toNat / 1024

/-- A command that takes neither a direction nor a lane: both fields must be 0 (R99). -/
def noOperands (d : Dir) (n : LaneField) (i : Instr) : Option Instr :=
  if d = .tx ∧ n = 0 then some i else none

/-- A command of one direction only: the other value is illegal (R99). -/
def onlyDir (want d : Dir) (i : Instr) : Option Instr := if d = want then some i else none

/-- The operation codes of R97 over the fields and the operand record of R100. -/
def decodeOp (d : Dir) (n : LaneField) (r : OperandRecord) : Nat → Option Instr
  | 0x1 => noOperands d n .attach
  | 0x2 => noOperands d n .detach
  | 0x3 => some (match d with
      | .tx => .claimTx n r.owner r.cb r.addr
      | .rx => .claimRx n r.owner r.cb)
  | 0x4 => some (.trigger d n)
  | 0x5 => some (.stop d n)
  | 0x6 => some (.pause d n)
  | 0x7 => some (.release d n)
  | 0x8 => some (.updsw d n r.val)
  | 0x9 => some (.rdhw d n)
  | 0xA => noOperands d n .dispatch
  | 0xB => onlyDir .rx d (.rxdrain n)
  | 0xC => onlyDir .tx d (.txprod n r.count r.data)
  | 0xD => onlyDir .tx d (.txcomp n)
  | 0xE => some (.work d n)
  | _ => none

/-- Decode a command word with its operand record (R96 to R101). -/
def decodeCmd (w : Word) (r : OperandRecord) : Except DecodeError Instr :=
  if cmdReserved w ≠ 0 then .error .illegalCommand
  else
    match decodeOp (cmdDir w) (cmdLane w) r (cmdOp w) with
    | some i => .ok i
    | none => .error .illegalCommand

/-- The decoder of a block of `N` lanes: the format is known from the interface the word arrives on
(R90). -/
def decode (N : Fin 33) : Packet → Except DecodeError Instr
  | .mmio width w v => decodeMmio N width w v
  | .cmd w r => decodeCmd w r

/-! ### The encoder -/

/-- The operand record of zeros. -/
def zeroOperands : OperandRecord :=
  { owner := ⟨0⟩, cb := ⟨0⟩, val := 0, addr := 0, count := 0, data := [] }

/-- A read of the register at offset `off` (R102: `W = 0, off`). -/
def encodeRead (off : Nat) : Packet := .mmio .w32 (BitVec.ofNat 13 off) 0

/-- A write of `v` to the register at offset `off` (R102: `W = 1, off`). -/
def encodeWrite (off : Nat) (v : Word) : Packet := .mmio .w32 (BitVec.ofNat 13 (0x1000 + off)) v

/-- The offset of a lane's register: `base + 0x20·n` (10_state R21). -/
def laneOffset (base : Nat) (n : Lane) : Nat := base + 0x20 * n.val

/-- The code of a direction (R96). -/
def dirCode : Dir → Nat
  | .tx => 0
  | .rx => 1

/-- A command word `OP | D<<4 | LANE<<5` (R96). -/
def encodeCmdWord (op : Nat) (d : Dir) (n : LaneField) : Word :=
  BitVec.ofNat 32 (op + 16 * dirCode d + 32 * n.val)

/-- A command with its operand record. -/
def encodeCmd (op : Nat) (d : Dir) (n : LaneField) (r : OperandRecord := zeroOperands) : Packet :=
  .cmd (encodeCmdWord op d n) r

/-- The packet of an instruction. -/
def encode : Instr → Packet
  | .ld32TxEn => encodeRead 0x00
  | .st32TxEn v => encodeWrite 0x00 v
  | .ld32RxEn => encodeRead 0x04
  | .st32RxEn v => encodeWrite 0x04 v
  | .ld32BufSz => encodeRead 0x08
  | .st32BufSz v => encodeWrite 0x08 v
  | .ld32RxTimeout => encodeRead 0x0C
  | .st32RxTimeout v => encodeWrite 0x0C v
  | .ld32TxRst => encodeRead 0x20
  | .st32TxRst v => encodeWrite 0x20 v
  | .ld32RxRst => encodeRead 0x24
  | .st32RxRst v => encodeWrite 0x24 v
  | .ld32TxIer => encodeRead 0x30
  | .st32TxIer v => encodeWrite 0x30 v
  | .ld32TxIsr => encodeRead 0x34
  | .st32TxIsr v => encodeWrite 0x34 v
  | .ld32RxIer => encodeRead 0x38
  | .st32RxIer v => encodeWrite 0x38 v
  | .ld32RxIsr => encodeRead 0x3C
  | .st32RxIsr v => encodeWrite 0x3C v
  | .ld32TxRd n => encodeRead (laneOffset 0x40 n)
  | .st32TxRd n v => encodeWrite (laneOffset 0x40 n) v
  | .ld32TxWr n => encodeRead (laneOffset 0x44 n)
  | .st32TxWr n v => encodeWrite (laneOffset 0x44 n) v
  | .ld32TxBase n => encodeRead (laneOffset 0x48 n)
  | .st32TxBase n v => encodeWrite (laneOffset 0x48 n) v
  | .ld32RxRd n => encodeRead (laneOffset 0x50 n)
  | .st32RxRd n v => encodeWrite (laneOffset 0x50 n) v
  | .ld32RxWr n => encodeRead (laneOffset 0x54 n)
  | .st32RxWr n v => encodeWrite (laneOffset 0x54 n) v
  | .ld32RxBase n => encodeRead (laneOffset 0x58 n)
  | .st32RxBase n v => encodeWrite (laneOffset 0x58 n) v
  | .attach => encodeCmd 0x1 .tx 0
  | .detach => encodeCmd 0x2 .tx 0
  | .claimTx n owner cb addr =>
      encodeCmd 0x3 .tx n { zeroOperands with owner := owner, cb := cb, addr := addr }
  | .claimRx n owner cb => encodeCmd 0x3 .rx n { zeroOperands with owner := owner, cb := cb }
  | .trigger d n => encodeCmd 0x4 d n
  | .stop d n => encodeCmd 0x5 d n
  | .pause d n => encodeCmd 0x6 d n
  | .release d n => encodeCmd 0x7 d n
  | .updsw d n val => encodeCmd 0x8 d n { zeroOperands with val := val }
  | .rdhw d n => encodeCmd 0x9 d n
  | .dispatch => encodeCmd 0xA .tx 0
  | .rxdrain n => encodeCmd 0xB .rx n
  | .txprod n count data => encodeCmd 0xC .tx n { zeroOperands with count := count, data := data }
  | .txcomp n => encodeCmd 0xD .tx n
  | .work d n => encodeCmd 0xE d n

/-- The word of a packet as a number: the access word or the command word. -/
def packetWord : Packet → Nat
  | .mmio _ w _ => w.toNat
  | .cmd w _ => w.toNat

/-- The packet whose word is `w`: an access word where the row has at most 16 bits (13 in whole bytes),
a command word where it has at most 32; data and operands are zeros. An access word has no bit above
bit 12 (log 26). -/
def tablePacket (nbits w : Nat) : Option Packet :=
  if nbits ≤ 16 then (if w < 2 ^ 13 then some (.mmio .w32 (BitVec.ofNat 13 w) 0) else none)
  else if w < 2 ^ 32 then some (.cmd (BitVec.ofNat 32 w) zeroOperands)
  else none

/-- What the decoder reads from a word of spec/opcode_table.json, whose rows are those of a block with the
default lane count. -/
def decodeTableWord (nbits w : Nat) : Option Instr :=
  match tablePacket nbits w with
  | none => none
  | some p =>
    match decode Config.defaultLanes p with
    | .ok i => some i
    | .error _ => none

end Sys2Proof
end

