-- ==== Sys2Proof/Machine/State.lean ====
section
/-! DEFINITION. The machine's state as plain data: the register block (10_state R21 to R38), the hidden
lane-agent flags (R176), the control-unit state (R40 to R48), system memory (R62), and what the
outside world has in store; its faults and refusals; and the state after reset. -/

namespace Sys2Proof.Machine

/-- The fault reasons of 60_exceptions R306, and one of the model's own. Every fault is SAFE: the model
stops where the source gives a use no meaning. -/
inductive Fault where
  /-- any command but ATTACH while not attached (R190); raised by `attachedOnly` -/
  | notAttached
  /-- ATTACH while attached (R192); raised by `attachBody` -/
  | alreadyAttached
  /-- a register access with `off[1:0] ≠ 0` (R95); raised by the step on decoding -/
  | misalignedRegister
  /-- a register access of 8, 16 or 64 bits (R67); raised by the step on decoding -/
  | registerWidth
  /-- a register access to an offset no register has (R95); raised by the step on decoding -/
  | unmappedRegister
  /-- a write of 1 to bits 31:N of an enable, reset or interrupt-enable register (R122, R130, R134) -/
  | reservedBitWrite
  /-- a `BUF_SZ` write while a lane is enabled (R126) -/
  | configWhileEnabled
  /-- a pointer write of a value not below the capacity (R142, R144, R148, R150) -/
  | pointerRange
  /-- a hardware-pointer write while the lane is enabled (R142, R150) -/
  | hwPointerWriteWhileEnabled
  /-- a base write while the lane is enabled (R146, R152) -/
  | baseWriteWhileEnabled
  /-- a ring base that is no multiple of `BUF_ALIGN` (R146, R152, R192, R195) -/
  | baseAlign
  /-- rings that overlap or pass 0xFFFFFFFF (R192, R195) -/
  | overlap
  /-- DESIGN CHOICE (log 15): the control unit addresses a ring byte above 0xFFFFFFFF, where R62 gives no
  byte; no state that the commands build gets there -/
  | ringAddress
deriving DecidableEq, Repr

/-- The refusals of R307, the interface's own `notModelled`, and the answer of a marked state. Every
refusal is SAFE: nothing can be proved to follow it. -/
inductive Refusal where
  /-- an instruction that has no meaning yet; raised in exec's arms only -/
  | notModelled (mnemonic : String)
  /-- an illegal command word (R101); raised by the step on decoding -/
  | illegalCommandWord
  /-- a `BUF_SZ` write of a value other than `SIZE_CLASS` (R126) -/
  | unknownSizeClass
  /-- the state's refusal mark is set (R48, R307); raised by the step -/
  | refusalMarked
deriving DecidableEq, Repr

/-- The registers of one direction; what belongs to a lane is indexed by all 32 lane numbers, and the entries
of the numbers `N` and above are never used (R7, log 3). `hw` is the hardware pointer (`TX_RD[n]`,
`RX_WR[n]`) and `sw` the software pointer (`TX_WR[n]`, `RX_RD[n]`), as in 30_encoding R104. -/
structure Bank where
  /-- `TX_EN` / `RX_EN` (R22, R23) -/
  en : Word
  /-- `TX_RST` / `RX_RST` (R26, R27) -/
  rst : Word
  /-- `TX_IER` / `RX_IER` (R28, R30) -/
  ier : Word
  /-- `TX_ISR` / `RX_ISR` (R29, R31) -/
  isr : Word
  /-- `TX_RD[n]` (R32) / `RX_WR[n]` (R36) -/
  hw : Vector Word 32
  /-- `TX_WR[n]` (R33) / `RX_RD[n]` (R35) -/
  sw : Vector Word 32
  /-- `TX_BASE[n]` (R34) / `RX_BASE[n]` (R37) -/
  base : Vector Word 32
deriving DecidableEq, Repr

/-- `slot[d][n]` (R41). -/
inductive Slot where
  | free
  | owned (owner : Owner) (cb : Callback)
deriving DecidableEq, Repr

/-- `run[d][n]` (R42). -/
inductive RunState where
  | idle
  | armed
  | paused
deriving DecidableEq, Repr

/-- A lane's entry of the channel table (R41, R42, R43, R46). -/
structure Chan where
  slot : Slot
  run : RunState
  head : Nat
  tail : Nat
  work : Bool
deriving DecidableEq, Repr

/-- The result codes of R301. -/
inductive Code where
  | ok
  | invalidChannel
  | alreadyOwned
  | busy
  | corruptPointer
  | notOwned
  | invalidState
  | invalidPointer
deriving DecidableEq, Repr

/-- The anomaly kinds of R45. -/
inductive AnomalyKind where
  | spuriousInterrupt
  | disabledLaneCompletion
  | reservedStatusBit
  | corruptPointer
deriving DecidableEq, Repr

/-- The events of the history (R45). -/
inductive Event where
  | callback (owner : Owner) (cb : Callback) (d : Dir) (n : Lane) (value : Nat)
  | ioError (owner : Owner) (d : Dir) (n : Lane)
  | deliver (owner : Owner) (n : Lane) (bytes : List Byte)
  | bytesAvailable (owner : Owner) (n : Lane)
  | spaceAvailable (owner : Owner) (n : Lane)
  | anomaly (kind : AnomalyKind) (d : Option Dir) (n : Option Lane)
  | lineTx (n : Lane) (b : Byte)
  | lineRx (n : Lane) (b : Byte)
  | result (cmd : Instr) (code : Code) (value : Option Nat)
deriving DecidableEq, Repr

/-- System memory (20_memory R62) in canonical form: addresses strictly rising, no entry equal to what an
unlisted address reads as (`unlistedByte` in Machine/Memory.lean). -/
abbrev Memory := List Host.Cell

/-- What one micro-step of a command, or one look at the control-unit state, gave the command (R74): the
model's own record (log 28), of which each use fills the fields it needs. -/
structure Datum where
  flag : Bool := false
  number : Nat := 0
  word : Word := 0
  byte : Byte := 0
  bytes : List Byte := []
  chan : Chan := { slot := .free, run := .idle, head := 0, tail := 0, work := false }
deriving DecidableEq, Repr

/-- How much one step of the machine does (log 29). -/
inductive Pace where
  /-- one atomic step of one agent: a step of a lane agent, a direct register access, or one micro-step
  of a command, as R47, R72 and R74 count steps -/
  | atomic
  /-- one instruction: a command's micro-steps one after another, with the lane-agent steps of one slot of
  the schedule before each -/
  | command
deriving DecidableEq, Repr

/-- The coming free inputs (R12 `draw`), the model's own field (log 7): values the outside world has
already fixed, in the order they will be taken, and the number of draws so far, to which the free
values of Config are applied once a list is used up. -/
structure Draws where
  /-- what bits 31:N read as at the coming reads of bitmask registers (R38) -/
  reserved : List Word
  /-- how many bytes the consumer stream takes at the coming drains (R252) -/
  accepted : List Nat
  /-- what the port's outgoing stream offers at the coming WORKs (R256) -/
  stream : List (Nat × List Byte)
  /-- draws made so far -/
  count : Nat
deriving DecidableEq, Repr

/-- The state. -/
structure State where
  /-- the implementation parameters (R7), which no step changes (log 3) -/
  cfg : Params
  /-- the transmit registers -/
  tx : Bank
  /-- the receive registers -/
  rx : Bank
  /-- `BUF_SZ` (R24) -/
  bufSz : Word
  /-- `RX_TIMEOUT` (R25) -/
  rxTimeout : Word
  /-- `tx_moved[n]` (R176) -/
  txMoved : Vector Bool 32
  /-- `attached` (R40) -/
  attached : Bool
  /-- the transmit lanes' channel table (R41 to R43, R46) -/
  txChan : Vector Chan 32
  /-- the receive lanes' channel table -/
  rxChan : Vector Chan 32
  /-- `buf[TX][n]` (R44) -/
  txBuf : Vector Word 32
  /-- `hist` (R45), oldest first -/
  hist : List Event
  /-- `cur` (R47) -/
  cur : Option (Instr × Nat)
  /-- what the command in `cur` has read so far, oldest first (log 28): with its instruction, the place in
  its pseudocode and the values of that pseudocode's variables -/
  seen : List Datum
  /-- `faulted` (R48; log 10) -/
  faulted : Option Fault
  /-- `refused` (R48; log 10) -/
  refused : Bool
  /-- system memory (R62) -/
  mem : Memory
  /-- the packets that stand on the host's interfaces, in the order they will be taken (log 12) -/
  inbox : List Packet
  /-- the coming lane-agent steps: those of the head happen before the next micro-step (log 4) -/
  sched : List (List LaneStep)
  /-- how much a step does, which no step changes (log 29) -/
  pace : Pace
  /-- the coming free inputs (log 7) -/
  draws : Draws
  /-- what the last direct register read returned (R91; log 19) -/
  readData : Option Word
deriving DecidableEq, Repr

/-- Equal values, one for each lane number. -/
def perLane {α : Type} (x : α) : Vector α 32 :=
  ⟨#[x, x, x, x, x, x, x, x, x, x, x, x, x, x, x, x, x, x, x, x, x, x, x, x, x, x, x, x, x, x, x, x], rfl⟩

/-- The registers of one direction at power-on. DESIGN CHOICE (log 1, unsafe): R50 leaves every register
unspecified; the model names 0. -/
def Bank.reset : Bank :=
  { en := 0, rst := 0, ier := 0, isr := 0, hw := perLane 0, sw := perLane 0, base := perLane 0 }

/-- A channel-table entry's initial value (R41, R42, R43, R46). -/
def Chan.reset : Chan := { slot := .free, run := .idle, head := 0, tail := 0, work := false }

/-- The machine right after power-on: control-unit state as R40 to R48 say, registers as log 1 and 2 name
them, the lane count R7's, the other parameters and the interleaving the free values of Config (log 3,
6), and steps as R47 counts them (log 29). -/
def State.reset : State :=
  { cfg := { Config.params with numLanes := Config.defaultLanes }
    tx := Bank.reset
    rx := Bank.reset
    bufSz := 0
    rxTimeout := 0
    txMoved := perLane false
    attached := false
    txChan := perLane Chan.reset
    rxChan := perLane Chan.reset
    txBuf := perLane 0
    hist := []
    cur := none
    seen := []
    faulted := none
    refused := false
    mem := []
    inbox := []
    sched := Config.laneSchedule
    pace := .atomic
    draws := { reserved := [], accepted := [], stream := [], count := 0 }
    readData := none }

end Sys2Proof.Machine
end

