-- ==== Sys2Proof/WellFormed.lean ====
section
/-! DEFINITION. Which instructions are well formed. Directions are bounded by their type; what remains is
that the lane of a register access exists (30_encoding R94) and TXPROD's operand record (R100, R255). -/

namespace Sys2Proof

/-- `MASK(d)` for `CAP(d) = 2^(k+1)` (00_scope R8). -/
def capMask (k : Fin 31) : Nat := 2 ^ (k.val + 1) - 1

/-- `data` holds "at least `min(count, CAP_TX)`" bytes (R100). -/
def dataLongEnough (c : Params) (count : Nat) (data : List Byte) : Bool :=
  decide (min count (capMask c.capTxLog + 1) ≤ data.length)

/-- The lane of a per-lane register access; none of any other instruction. -/
def Instr.registerLane : Instr → Option Lane
  | .ld32TxRd n | .st32TxRd n _ | .ld32TxWr n | .st32TxWr n _ | .ld32TxBase n | .st32TxBase n _ => some n
  | .ld32RxRd n | .st32RxRd n _ | .ld32RxWr n | .st32RxWr n _ | .ld32RxBase n | .st32RxBase n _ => some n
  | _ => none

/-- The register that an instruction accesses is one of a lane that exists, or a global one. -/
def Instr.registerExists (c : Params) (i : Instr) : Bool :=
  match i.registerLane with
  | some n => c.hasLane n
  | none => true

/-- The operand record is long enough. -/
def Instr.recordComplete (c : Params) : Instr → Bool
  | .txprod _ count data => dataLongEnough c count data
  | _ => true

/-- Well-formedness of an instruction for the implementation `c`. -/
def Instr.wellFormed (c : Params) (i : Instr) : Bool := i.registerExists c && i.recordComplete c

end Sys2Proof
end

