-- ==== Sys2Proof/Machine/Operands.lean ====
section
/-! DEFINITION. Operand forms: derived parameters (00_scope R8), pointer arithmetic modulo a capacity
(R11), the lane operand (30_encoding R98), access to a direction's registers and channel table
(R104), counts (43 R241), ring placement and overlap (20_memory R63), result-code numbers (R301). -/

namespace Sys2Proof.Machine

/-! ### Derived parameters (R7, R8) -/

/-- `MASK(d)` (R8). -/
def ringMask (c : Params) : Dir → Nat
  | .tx => capMask c.capTxLog
  | .rx => capMask c.capRxLog

/-- `CAP(d)` (R8): `MASK(d) = CAP(d) - 1`. -/
def cap (c : Params) (d : Dir) : Nat := ringMask c d + 1

/-- `BUF_ALIGN` (R7, R66). -/
def bufAlign (c : Params) : Nat := 2 ^ c.bufAlignLog

/-- `REFILL_UNIT` (R7). -/
def refillUnit (c : Params) : Nat := c.refillPred + 1

/-- `REG_WINDOW` (R7, R60). -/
def regWindow : Nat := 0x1000

/-- `0xFFFFFFFF + 1`: physical addresses lie below it (R62). -/
def addressLimit : Nat := 2 ^ 32

/-! ### Pointer arithmetic (R11) -/

/-- `a ⊕ b = (a + b) & MASK` (R11). -/
def ringAdd (mask a b : Nat) : Nat := (a + b) &&& mask

/-- `a ⊖ b = (a - b) & MASK` on unbounded integers (R11). `MASK` is `-1` modulo the capacity, so `MASK·b`
stands for `-b` and the natural numbers suffice (`ringSub_eq_emod` in Laws/Ring.lean). -/
def ringSub (mask a b : Nat) : Nat := (a + mask * b) &&& mask

/-- A pointer as a register value. -/
def toWord (k : Nat) : Word := BitVec.ofNat 32 k

/-! ### The lane operand (R98, R190) -/

/-- The lane a `LANE` field names, none when `n ≥ N`. -/
def laneOf (c : Params) (n : LaneField) : Option Lane := if c.hasLane n then some n else none

/-! ### The two directions' state -/

/-- The registers of a direction. -/
def State.bank (s : State) : Dir → Bank
  | .tx => s.tx
  | .rx => s.rx

/-- Replace the registers of a direction. -/
def State.setBank (s : State) (d : Dir) (b : Bank) : State :=
  match d with
  | .tx => { s with tx := b }
  | .rx => { s with rx := b }

/-- `slot`, `run`, `head`, `tail`, `work` of a lane. -/
def State.chan (s : State) (d : Dir) (n : Lane) : Chan :=
  match d with
  | .tx => s.txChan[n.val]
  | .rx => s.rxChan[n.val]

/-- Replace a lane's channel-table entry. -/
def State.setChan (s : State) (d : Dir) (n : Lane) (c : Chan) : State :=
  match d with
  | .tx => { s with txChan := s.txChan.set n.val c }
  | .rx => { s with rxChan := s.rxChan.set n.val c }

/-- `buf[d][n]` (R44): `RX_BUF_PHYS[n]` for RX, always. -/
def State.buf (s : State) (d : Dir) (n : Lane) : Word :=
  match d with
  | .tx => s.txBuf[n.val]
  | .rx => s.cfg.rxBufPhys[n.val]

/-- Replace `buf[TX][n]`. -/
def State.setTxBuf (s : State) (n : Lane) (v : Word) : State := { s with txBuf := s.txBuf.set n.val v }

/-- Replace system memory. -/
def State.setMem (s : State) (m : Memory) : State := { s with mem := m }

/-- Replace a lane's hardware pointer. -/
def Bank.setHw (b : Bank) (n : Lane) (v : Word) : Bank := { b with hw := b.hw.set n.val v }

/-- Replace a lane's software pointer. -/
def Bank.setSw (b : Bank) (n : Lane) (v : Word) : Bank := { b with sw := b.sw.set n.val v }

/-- Replace a lane's base. -/
def Bank.setBase (b : Bank) (n : Lane) (v : Word) : Bank := { b with base := b.base.set n.val v }

/-! ### One register of a direction or of a lane replaced -/

/-- The enable register of a direction set. -/
def State.withEn (s : State) (d : Dir) (v : Word) : State := s.setBank d { s.bank d with en := v }

/-- The reset register of a direction set, and nothing else. -/
def State.withRst (s : State) (d : Dir) (v : Word) : State := s.setBank d { s.bank d with rst := v }

/-- The interrupt-enable register of a direction set. -/
def State.withIer (s : State) (d : Dir) (v : Word) : State := s.setBank d { s.bank d with ier := v }

/-- The status register of a direction set. -/
def State.withIsr (s : State) (d : Dir) (v : Word) : State := s.setBank d { s.bank d with isr := v }

/-- A hardware pointer set. -/
def State.withHw (s : State) (d : Dir) (n : Lane) (v : Word) : State := s.setBank d ((s.bank d).setHw n v)

/-- A software pointer set. -/
def State.withSw (s : State) (d : Dir) (n : Lane) (v : Word) : State := s.setBank d ((s.bank d).setSw n v)

/-- A base set. -/
def State.withBase (s : State) (d : Dir) (n : Lane) (v : Word) : State :=
  s.setBank d ((s.bank d).setBase n v)

/-- The values `f 0 .. f 31`. -/
def tabulate {α : Type} (f : Lane → α) : Vector α 32 :=
  ⟨#[f 0, f 1, f 2, f 3, f 4, f 5, f 6, f 7, f 8, f 9, f 10, f 11, f 12, f 13, f 14, f 15, f 16, f 17,
    f 18, f 19, f 20, f 21, f 22, f 23, f 24, f 25, f 26, f 27, f 28, f 29, f 30, f 31], rfl⟩

/-- `x` for every lane that exists, the old value elsewhere. -/
def forLanes {α : Type} (c : Params) (f : Lane → α) (old : Vector α 32) : Vector α 32 :=
  tabulate fun n => if c.hasLane n then f n else old[n.val]

/-! ### Counts (R241) -/

/-- `pending(d, n) = head ⊖ tail`. -/
def pendingCount (s : State) (d : Dir) (n : Lane) : Nat :=
  ringSub (ringMask s.cfg d) (s.chan d n).head (s.chan d n).tail

/-- `space(d, n) = CAP(d) - 1 - pending(d, n)`. -/
def spaceCount (s : State) (d : Dir) (n : Lane) : Nat := ringMask s.cfg d - pendingCount s d n

/-! ### Ring placement (R62, R63, R66) -/

/-- An interval of physical addresses: first address and size. -/
structure Region where
  first : Nat
  size : Nat
deriving DecidableEq, Repr

/-- Two intervals share no address. -/
def disjoint (a b : Region) : Bool :=
  decide (a.first + a.size ≤ b.first ∨ b.first + b.size ≤ a.first)

/-- Every two of the intervals are disjoint. -/
def pairwiseDisjoint : List Region → Bool
  | [] => true
  | r :: rs => rs.all (disjoint r) && pairwiseDisjoint rs

/-- The register window (R60). -/
def windowRegion (c : Params) : Region := { first := c.regBase.toNat, size := regWindow }

/-- The ring of direction `d` at base address `a`. -/
def ringRegion (c : Params) (d : Dir) (a : Word) : Region := { first := a.toNat, size := cap c d }

/-- The receive rings (R7 `RX_BUF_PHYS`). -/
def rxRegions (c : Params) : List Region :=
  c.lanes.map fun n => ringRegion c .rx c.rxBufPhys[n.val]

/-- A slot is `Owned`. -/
def Slot.isOwned : Slot → Bool
  | .free => false
  | .owned _ _ => true

/-- The rings of the owned transmit lanes (R195). -/
def ownedTxRegions (s : State) : List Region :=
  (s.cfg.lanes.filter fun n => (s.chan .tx n).slot.isOwned).map fun n => ringRegion s.cfg .tx s.txBuf[n.val]

/-- A base is a multiple of `BUF_ALIGN` (R66). -/
def aligned (c : Params) (a : Word) : Bool := decide (a.toNat % bufAlign c = 0)

/-- A ring's last byte is not above 0xFFFFFFFF (R62). -/
def belowTop (c : Params) (d : Dir) (a : Word) : Bool := decide (a.toNat + cap c d ≤ addressLimit)

/-! ### Numbers and bytes -/

/-- The numeric result codes of R301. -/
def Code.number : Code → Nat
  | .ok => 0
  | .invalidChannel => 1
  | .alreadyOwned => 2
  | .busy => 3
  | .corruptPointer => 4
  | .notOwned => 5
  | .invalidState => 6
  | .invalidPointer => 7

/-- A register's four bytes as a host that reads byte-wise sees them (20_memory R65, `REG_ENDIAN`); no
rule of the block uses it (log 23). -/
def hostBytes (c : Params) (v : Word) : List Byte :=
  let le := [v.extractLsb' 0 8, v.extractLsb' 8 8, v.extractLsb' 16 8, v.extractLsb' 24 8]
  match c.regEndian with
  | .little => le
  | .big => le.reverse

end Sys2Proof.Machine
end

