-- ==== Sys2Proof/Machine/Flags.lean ====
section
/-! DEFINITION. The status flags (10_state R51; the block has no arithmetic condition codes): lane bits of
the bitmask registers, the read-modify-write of one bit (30_encoding R104), write-one-to-clear
(40_registers R136), and the derived signals of R39, R42, R171 and 60_exceptions R308. -/

namespace Sys2Proof.Machine

/-- `LANE_MASK = 2^N - 1` (00_scope R8). -/
def laneMask (c : Params) : Word := BitVec.ofNat 32 (2 ^ c.numLanes.val - 1)

/-- `bit(n)` (R12). -/
def laneBit (n : Lane) : Word := 1#32 <<< n.val

/-- `v[n]` of a bitmask register: the bit of lane `n` (R22, decision D3). -/
def testLane (v : Word) (n : Lane) : Bool := v.getLsbD n.val

/-- A value has a 1 in bits 31:N (R38). -/
def hasReserved (c : Params) (v : Word) : Bool := decide (v &&& ~~~laneMask c ≠ 0)

/-- What a read of a bitmask register returns: the lane bits as stored, bits 31:N a draw (R38, R121). -/
def maskedRead (c : Params) (stored draw : Word) : Word :=
  (stored &&& laneMask c) ||| (draw &&& ~~~laneMask c)

/-- The value SETEN writes (R104). -/
def withLaneBit (c : Params) (v : Word) (n : Lane) : Word := (v ||| laneBit n) &&& laneMask c

/-- The value CLREN writes (R104). -/
def withoutLaneBit (c : Params) (v : Word) (n : Lane) : Word := (v &&& ~~~(laneBit n)) &&& laneMask c

/-- Write-one-to-clear (R136). -/
def writeOneToClear (isr v : Word) : Word := isr &&& ~~~v

/-- A lane agent's latching of its status bit (R166). -/
def latch (isr : Word) (n : Lane) : Word := isr ||| laneBit n

/-- Lane `(d, n)` is active: it exists, is enabled and not in reset (R9, R39). -/
def laneActive (s : State) (d : Dir) (n : Lane) : Bool :=
  s.cfg.hasLane n && testLane (s.bank d).en n && !testLane (s.bank d).rst n

/-- The channel field `enabled` (R42). -/
def enabled (s : State) (d : Dir) (n : Lane) : Bool := decide ((s.chan d n).run = .armed)

/-- Interrupt source `(d, n)` is pending (R308). -/
def sourcePending (s : State) (d : Dir) (n : Lane) : Bool :=
  s.cfg.hasLane n && testLane (s.bank d).isr n

/-- Interrupt source `(d, n)` is enabled (R308). -/
def sourceEnabled (s : State) (d : Dir) (n : Lane) : Bool :=
  s.cfg.hasLane n && testLane (s.bank d).ier n

/-- The shared level-sensitive interrupt line (R171). -/
def interruptLine (s : State) : Bool :=
  decide (((s.tx.isr &&& s.tx.ier) ||| (s.rx.isr &&& s.rx.ier)) &&& laneMask s.cfg ≠ 0)

end Sys2Proof.Machine
end

