-- ==== Sys2Proof/Machine/Memory.lean ====
section
/-! DEFINITION. System memory (20_memory R60, R62): reading and writing one byte of a canonical list of
cells. -/

namespace Sys2Proof.Machine

/-- What an unlisted address reads as. DESIGN CHOICE (log 14, unsafe): the spec gives system memory no
contents at power-on; the model names 0. -/
def unlistedByte : Byte := 0

/-- `MemRead(addr, 1)` (R12). -/
def memRead : Memory → Nat → Byte
  | [], _ => unlistedByte
  | (a', b) :: m, a => if a = a' then b else memRead m a

/-- Put a cell before `m`, unless it holds what an unlisted address reads as. -/
def memCons (a : Nat) (b : Byte) (m : Memory) : Memory := if b = unlistedByte then m else (a, b) :: m

/-- `MemWrite(addr, 1, v)` (R12), keeping the canonical form. -/
def memWrite : Memory → Nat → Byte → Memory
  | [], a, b => memCons a b []
  | (a', b') :: m, a, b =>
    if a < a' then memCons a b ((a', b') :: m)
    else if a = a' then memCons a b m
    else (a', b') :: memWrite m a b

/-- Every address of `m` is above `a`. -/
def memAbove (a : Nat) (m : Memory) : Bool := m.all fun c => decide (a < c.1)

/-- The canonical form: addresses strictly rising and inside the 32-bit address space (R62), no entry
equal to what an unlisted address reads as. -/
def memWf : Memory → Bool
  | [] => true
  | (a, b) :: m => decide (a < 2 ^ 32) && decide (b ≠ unlistedByte) && memAbove a m && memWf m

/-- The canonical form, under the name the package's texts use. -/
abbrev Memory.wf (m : Memory) : Prop := memWf m = true

end Sys2Proof.Machine
end

