-- ==== Sys2Proof/Machine/Lanes.lean ====
section
/-! DEFINITION. The lane agents (41_engine): what each of their steps does, and the interleaving of one
slot of the schedule (20_memory R72, R74). -/

namespace Sys2Proof.Machine

/-- Append an event to the history (10_state R45). -/
def State.log (s : State) (e : Event) : State := { s with hist := s.hist ++ [e] }

/-- The physical address of the ring byte at a lane's hardware pointer (R63). -/
def agentAddress (b : Bank) (n : Lane) : Nat := b.base[n.val].toNat + b.hw[n.val].toNat

/-- The receive byte step is enabled (R162), and its address exists (R62: beyond the top the lane is
stuck). -/
def rxByteEnabled (s : State) (n : Lane) : Bool :=
  laneActive s .rx n
    && decide (s.rx.hw[n.val].toNat < cap s.cfg .rx)
    && decide (ringAdd (ringMask s.cfg .rx) s.rx.hw[n.val].toNat 1 ≠ s.rx.sw[n.val].toNat)
    && decide (agentAddress s.rx n < addressLimit)

/-- The receive byte step with the offered byte `b` (R162). -/
def rxByteStep (s : State) (n : Lane) (b : Byte) : State :=
  if rxByteEnabled s n then
    { s with
      mem := memWrite s.mem (agentAddress s.rx n) b
      rx := s.rx.setHw n (toWord (ringAdd (ringMask s.cfg .rx) s.rx.hw[n.val].toNat 1))
      hist := s.hist ++ [.lineRx n b] }
  else s

/-- The transmit byte step is enabled (R164), and its address exists (R62). -/
def txByteEnabled (s : State) (n : Lane) : Bool :=
  laneActive s .tx n
    && decide (s.tx.hw[n.val].toNat < cap s.cfg .tx)
    && decide (s.tx.sw[n.val].toNat < cap s.cfg .tx)
    && decide (s.tx.hw[n.val] ≠ s.tx.sw[n.val])
    && decide (agentAddress s.tx n < addressLimit)

/-- The transmit byte step (R164). -/
def txByteStep (s : State) (n : Lane) : State :=
  if txByteEnabled s n then
    { s with
      tx := s.tx.setHw n (toWord (ringAdd (ringMask s.cfg .tx) s.tx.hw[n.val].toNat 1))
      txMoved := s.txMoved.set n.val true
      hist := s.hist ++ [.lineTx n (memRead s.mem (agentAddress s.tx n))] }
  else s

/-- The status-set step (R166); on a receive lane this is also what the idle timer does (R169). -/
def statusStep (s : State) (d : Dir) (n : Lane) : State :=
  if laneActive s d n then
    match d with
    | .tx => { s with tx := { s.tx with isr := latch s.tx.isr n }, txMoved := s.txMoved.set n.val false }
    | .rx => { s with rx := { s.rx with isr := latch s.rx.isr n } }
  else s

/-- The hardware-fault step of a lane that exists (R172), only with `HW_MAY_CORRUPT`; a pointer held at 0 by
an asserted reset stays 0 (R32, R36; log 16). -/
def corruptStep (s : State) (d : Dir) (n : Lane) (v : Word) : State :=
  if s.cfg.hwMayCorrupt && s.cfg.hasLane n && !testLane (s.bank d).rst n then
    s.setBank d ((s.bank d).setHw n v)
  else s

/-- One step of an agent other than the control unit. -/
def laneStep (s : State) : LaneStep → State
  | .rxByte n b => rxByteStep s n b
  | .txByte n => txByteStep s n
  | .status d n => statusStep s d n
  | .corrupt d n v => corruptStep s d n v

/-- Several such steps, one after another. -/
def laneSteps (s : State) (l : List LaneStep) : State := l.foldl laneStep s

/-- The lane-agent steps of the next slot of the schedule happen (R74; log 4). With no slot left no lane
agent moves. -/
def interleave (s : State) : State :=
  match s.sched with
  | [] => s
  | l :: rest => laneSteps { s with sched := rest } l

end Sys2Proof.Machine
end

