-- ==== Sys2Proof/Machine/Ops.lean ====
section
/-! DEFINITION. The named operations every instruction is written with: the sequencing of micro-steps
(20_memory R74), register accesses (40_registers), ring bytes, draws, events, and what stands in the
block for taking an exception and returning from one: a command's start and result (42 R190, 60 R300
to R304), the CorruptPointer path (43 R242), interrupt entry being the command DISPATCH (60 R310). -/

namespace Sys2Proof.Machine

/-- Why a command stops before its end. -/
inductive Stop where
  | fault (r : Fault)
  | refused (r : Refusal)
deriving DecidableEq, Repr

/-- What the machine answers where a command stops. -/
def Stop.outcome : Stop → Host.Outcome State Fault Refusal
  | .fault r => .fault r
  | .refused r => .refused r

/-- A piece of a command, as its pseudocode gives it: a tree of what it does next, which answers a value.
Written as data, so that a command can stand still between two micro-steps (10_state R47). -/
inductive Op (α : Type) where
  /-- it is done -/
  | done (a : α)
  /-- `fault(reason)` or `refuse(reason)` (R12) -/
  | stop (r : Stop)
  /-- it goes on with the implementation's parameters, which never change -/
  | config (k : Params → Op α)
  /-- it looks at control-unit state, which no other agent writes (41_engine R160): no micro-step -/
  | look (f : State → Datum) (k : Datum → Op α)
  /-- one micro-step: an access, a draw or a state update (20_memory R74), and what it gave -/
  | access (f : State → Except Stop (Datum × State)) (k : Datum → Op α)

/-- One piece after another. -/
def Op.bind {α β : Type} : Op α → (α → Op β) → Op β
  | .done a, g => g a
  | .stop r, _ => .stop r
  | .config k, g => .config fun c => (k c).bind g
  | .look f k, g => .look f fun x => (k x).bind g
  | .access f k, g => .access f fun x => (k x).bind g

/-- The sequencing that `do` stands for below. -/
@[reducible] def opMonad : Monad Op where
  pure := .done
  bind := .bind

/-- A command's result code and value (R301); `none` where the spec gives no value (log 21). -/
structure Ret where
  code : Code
  value : Option Nat
deriving DecidableEq, Repr

/-! ### Running a piece of a command -/

/-- The index of the command's next micro-step advances (10_state R47). -/
def advanceCur (s : State) : State := { s with cur := s.cur.map fun c => (c.1, c.2 + 1) }

/-- The boundary before a micro-step: the lane agents of the next slot move, then the micro-step's index
advances (R74). -/
def boundary (s : State) : State := advanceCur (interleave s)

/-- Run a piece to its end, with the lane-agent steps of one slot of the schedule before each micro-step
(R74). -/
def Op.run {α : Type} : Op α → State → EStateM.Result Stop State α
  | .done a, s => .ok a s
  | .stop r, s => .error r s
  | .config k, s => (k s.cfg).run s
  | .look f k, s => (k (f s)).run s
  | .access f k, s =>
    match f (boundary s) with
    | .ok (x, t) => (k x).run t
    | .error r => .error r (boundary s)

/-- Note what the running command has read; a command that has ended needs it no more. -/
def remember (x : Datum) (s : State) : State :=
  match s.cur with
  | some _ => { s with seen := s.seen ++ [x] }
  | none => s

/-- Run a command up to and with its next micro-step, noting what it reads (R47, R74). -/
def Op.micro : Op Unit → State → Host.Outcome State Fault Refusal
  | .done _, s => .next s
  | .stop r, _ => r.outcome
  | .config k, s => (k s.cfg).micro s
  | .look f k, s => (k (f s)).micro (remember (f s) s)
  | .access f _, s =>
    match f (boundary s) with
    | .ok (x, t) => .next (remember x t)
    | .error r => r.outcome

/-- What is left of a command that has read `seen` already. -/
def Op.resume {α : Type} (c : Params) : Op α → List Datum → Op α
  | .done a, _ => .done a
  | .stop r, _ => .stop r
  | .config k, l => (k c).resume c l
  | .look f k, l =>
    match l with
    | [] => .look f k
    | x :: rest => (k x).resume c rest
  | .access f k, l =>
    match l with
    | [] => .access f k
    | x :: rest => (k x).resume c rest

/-- The outcome of a command that ran to its end. A fault or refusal stops the machine (log 10). -/
def outcomeOf : EStateM.Result Stop State Unit → Host.Outcome State Fault Refusal
  | .ok _ s => .next s
  | .error r _ => r.outcome

/-! ### Pieces -/

/-- The implementation's parameters. -/
def params : Op Params := .config .done

/-- `attached`. -/
def lookAttached : Op Bool := .look (fun s => { flag := s.attached }) fun x => .done x.flag

/-- A lane's channel-table entry: `slot`, `run`, `head`, `tail`, `work`. -/
def lookChan (d : Dir) (n : Lane) : Op Chan := .look (fun s => { chan := s.chan d n }) fun x => .done x.chan

/-- `buf[d][n]`. -/
def lookBuf (d : Dir) (n : Lane) : Op Word := .look (fun s => { word := s.buf d n }) fun x => .done x.word

/-- `fault(reason)` (R12). -/
def faultWith {α : Type} (r : Fault) : Op α := .stop (.fault r)

/-- `if c then fault(r)`. -/
def faultIf (c : Bool) (r : Fault) : Op Unit := if c then faultWith r else .done ()

/-- `if c then x`. -/
def opWhen (c : Bool) (x : Op Unit) : Op Unit := if c then x else .done ()

/-- `for n in ns: f n`, in order. -/
def forEach {α : Type} : List α → (α → Op Unit) → Op Unit
  | [], _ => .done ()
  | n :: ns, f => letI := opMonad; do f n; forEach ns f

/-- A control-unit state update, one micro-step (R74). -/
def update (f : State → State) : Op Unit := .access (fun s => .ok ({}, f s)) fun _ => .done ()

/-- `emit ev` (R12): the history is control-unit state (R45), so this is one micro-step. -/
def emit (e : Event) : Op Unit := update fun s => s.log e

/-- Update a lane's channel-table entry, one micro-step (log 5). -/
def updateChan (d : Dir) (n : Lane) (f : Chan → Chan) : Op Unit :=
  update fun s => s.setChan d n (f (s.chan d n))

/-! ### Draws (R12; log 7, 8, 9) -/

/-- The bits 31:N of the next bitmask read (R38). -/
def nextReserved (s : State) : Word :=
  match s.draws.reserved with
  | w :: _ => w
  | [] => Config.reservedBits s.draws.count

/-- That draw is made. -/
def dropReserved (s : State) : State :=
  { s with draws := { s.draws with reserved := s.draws.reserved.tail, count := s.draws.count + 1 } }

/-- How many of `avail` bytes the consumer stream takes at the next drain: any number in
`[0, avail]` (43 R252). -/
def nextAccepted (s : State) (avail : Nat) : Nat :=
  match s.draws.accepted with
  | k :: _ => min k avail
  | [] => min (Config.acceptedBytes s.draws.count) avail

/-- That draw is made. -/
def dropAccepted (s : State) : State :=
  { s with draws := { s.draws with accepted := s.draws.accepted.tail, count := s.draws.count + 1 } }

/-- What the port's outgoing stream offers at the next WORK (43 R256). -/
def nextStream (s : State) : Nat × List Byte :=
  match s.draws.stream with
  | p :: _ => p
  | [] => Config.outgoingStream s.draws.count

/-- That draw is made. -/
def dropStream (s : State) : State :=
  { s with draws := { s.draws with stream := s.draws.stream.tail, count := s.draws.count + 1 } }

/-- Byte `i` of the outgoing data; a byte the data does not hold, though R100 and R256 ask for it, is a
free value (log 9). -/
def streamByte (data : List Byte) (i : Nat) : Byte := (data[i]?).getD (Config.missingByte i)

/-- `acc <- draw Nat, 0 ≤ acc ≤ avail`, one micro-step. -/
def drawAccepted (avail : Nat) : Op Nat :=
  .access (fun s => .ok ({ number := nextAccepted s avail }, dropAccepted s)) fun x => .done x.number

/-- `(count, data) <- draw`, one micro-step. -/
def drawStream : Op (Nat × List Byte) :=
  .access (fun s => .ok ({ number := (nextStream s).1, bytes := (nextStream s).2 }, dropStream s))
    fun x => .done (x.number, x.bytes)

/-! ### Registers (10_state R21, 40_registers) -/

/-- A register of the block; the per-lane pointers by their role (30_encoding R104). -/
inductive Reg where
  /-- `TX_EN`, `RX_EN` -/
  | en (d : Dir)
  /-- `TX_RST`, `RX_RST` -/
  | rst (d : Dir)
  /-- `TX_IER`, `RX_IER` -/
  | ier (d : Dir)
  /-- `TX_ISR`, `RX_ISR` -/
  | isr (d : Dir)
  /-- `BUF_SZ` -/
  | bufSz
  /-- `RX_TIMEOUT` -/
  | rxTimeout
  /-- `HWPTR(d, n)`: `TX_RD[n]`, `RX_WR[n]` -/
  | hw (d : Dir) (n : Lane)
  /-- `SWPTR(d, n)`: `TX_WR[n]`, `RX_RD[n]` -/
  | sw (d : Dir) (n : Lane)
  /-- `TX_BASE[n]`, `RX_BASE[n]` -/
  | base (d : Dir) (n : Lane)
deriving DecidableEq, Repr

/-- The value a register read returns (R121 to R151, odd rules); bits 31:N of a bitmask register are a
fresh draw (R38). -/
def regValue (r : Reg) (s : State) : Word :=
  match r with
  | .en d => maskedRead s.cfg (s.bank d).en (nextReserved s)
  | .rst d => maskedRead s.cfg (s.bank d).rst (nextReserved s)
  | .ier d => maskedRead s.cfg (s.bank d).ier (nextReserved s)
  | .isr d => maskedRead s.cfg (s.bank d).isr (nextReserved s)
  | .bufSz => s.bufSz
  | .rxTimeout => s.rxTimeout
  | .hw d n => (s.bank d).hw[n.val]
  | .sw d n => (s.bank d).sw[n.val]
  | .base d n => (s.bank d).base[n.val]

/-- The state after a register read: no read changes a register (R69); a bitmask register's has drawn. -/
def afterRead (r : Reg) (s : State) : State :=
  match r with
  | .en _ | .rst _ | .ier _ | .isr _ => dropReserved s
  | .bufSz | .rxTimeout | .hw _ _ | .sw _ _ | .base _ _ => s

/-- Both pointers of every lane whose bit of `v` is 1 become 0 (R130, R132). -/
def Bank.zeroPointers (b : Bank) (v : Word) : Bank :=
  { b with
    hw := tabulate fun n => if testLane v n then 0 else b.hw[n.val]
    sw := tabulate fun n => if testLane v n then 0 else b.sw[n.val] }

/-- `tx_moved[n] <- false` for every transmit lane whose bit of `v` is 1 (R130, R176). -/
def clearMoved (moved : Vector Bool 32) (v : Word) : Vector Bool 32 :=
  tabulate fun n => if testLane v n then false else moved[n.val]

/-- The effect of writing `v` to a reset register once the reserved bits are checked (R130, R132). -/
def assertReset (s : State) (d : Dir) (v : Word) : State :=
  match d with
  | .tx => { s with tx := { s.tx.zeroPointers v with rst := v }, txMoved := clearMoved s.txMoved v }
  | .rx => { s with rx := { s.rx.zeroPointers v with rst := v } }

/-- `TX_EN[n] = 1` or `RX_EN[n] = 1`. -/
def laneEnabled (s : State) (d : Dir) (n : Lane) : Bool := testLane (s.bank d).en n

/-- `TX_RST[n] = 1` or `RX_RST[n] = 1`. -/
def laneInReset (s : State) (d : Dir) (n : Lane) : Bool := testLane (s.bank d).rst n

/-- The effect of a register write (R122 to R152, even rules). -/
def regWrite (r : Reg) (v : Word) (s : State) : Except Stop State :=
  match r with
  | .en d =>
      if hasReserved s.cfg v then .error (.fault .reservedBitWrite) else .ok (s.withEn d v)
  | .rst d =>
      if hasReserved s.cfg v then .error (.fault .reservedBitWrite) else .ok (assertReset s d v)
  | .ier d =>
      if hasReserved s.cfg v then .error (.fault .reservedBitWrite) else .ok (s.withIer d v)
  | .isr d => .ok (s.withIsr d (writeOneToClear (s.bank d).isr v))
  | .bufSz =>
      if (s.tx.en ||| s.rx.en) &&& laneMask s.cfg ≠ 0 then .error (.fault .configWhileEnabled)
      else if v ≠ s.cfg.sizeClass then .error (.refused .unknownSizeClass)
      else .ok { s with bufSz := v }
  | .rxTimeout => .ok { s with rxTimeout := v }
  | .hw d n =>
      if cap s.cfg d ≤ v.toNat then .error (.fault .pointerRange)
      else if laneEnabled s d n then .error (.fault .hwPointerWriteWhileEnabled)
      else .ok (if laneInReset s d n then s else s.withHw d n v)
  | .sw d n =>
      if cap s.cfg d ≤ v.toNat then .error (.fault .pointerRange)
      else .ok (if laneInReset s d n then s else s.withSw d n v)
  | .base d n =>
      if laneEnabled s d n then .error (.fault .baseWriteWhileEnabled)
      else if aligned s.cfg v then .ok (s.withBase d n v)
      else .error (.fault .baseAlign)

/-- `LD32`, one micro-step. -/
def ld32 (r : Reg) : Op Word :=
  .access (fun s => .ok ({ word := regValue r s }, afterRead r s)) fun x => .done x.word

/-- `ST32`, one micro-step. -/
def st32 (r : Reg) (v : Word) : Op Unit :=
  .access (fun s => (regWrite r v s).map fun t => ({}, t)) fun _ => .done ()

/-! ### Pseudo-instructions (30_encoding R104) -/

/-- `ACK d, n`. -/
def ack (d : Dir) (n : Lane) : Op Unit := st32 (.isr d) (laneBit n)

/-- `SETEN d, n`. -/
def setEn (d : Dir) (n : Lane) : Op Unit := letI := opMonad; do
  let c ← params
  let v ← ld32 (.en d)
  st32 (.en d) (withLaneBit c v n)

/-- `CLREN d, n`. -/
def clrEn (d : Dir) (n : Lane) : Op Unit := letI := opMonad; do
  let c ← params
  let v ← ld32 (.en d)
  st32 (.en d) (withoutLaneBit c v n)

/-- `PULSE d, n`. -/
def pulse (d : Dir) (n : Lane) : Op Unit := letI := opMonad; do
  st32 (.rst d) (laneBit n)
  st32 (.rst d) 0

/-! ### Ring bytes seen by the control unit (20_memory R63, R64) -/

/-- The physical address of ring byte `i` of lane `(d, n)`. -/
def ringAddress (s : State) (d : Dir) (n : Lane) (i : Nat) : Nat := (s.buf d n).toNat + i

/-- `MemRead(buf[d][n] + i, 1)`, one micro-step (log 15 above the top). -/
def readRingByte (d : Dir) (n : Lane) (i : Nat) : Op Byte :=
  .access (fun s =>
      if ringAddress s d n i < addressLimit then
        .ok ({ byte := memRead s.mem (ringAddress s d n i) }, s)
      else .error (.fault .ringAddress))
    fun x => .done x.byte

/-- `MemWrite(buf[d][n] + i, 1, b)`, one micro-step. -/
def writeRingByte (d : Dir) (n : Lane) (i : Nat) (b : Byte) : Op Unit :=
  .access (fun s =>
      if ringAddress s d n i < addressLimit then
        .ok ({}, s.setMem (memWrite s.mem (ringAddress s d n i) b))
      else .error (.fault .ringAddress))
    fun _ => .done ()

/-- The `k` ring bytes at `start ⊕ j`, `start ⊕ (j+1)`, …, in that order across the boundary (43 R245,
R248). -/
def readRing (d : Dir) (n : Lane) (mask start j : Nat) : Nat → Op (List Byte)
  | 0 => .done []
  | k + 1 => letI := opMonad; do
      let b ← readRingByte d n (ringAdd mask start j)
      let bs ← readRing d n mask start (j + 1) k
      pure (b :: bs)

/-- Write `data[j]`, `data[j+1]`, …, `k` bytes, at `start ⊕ j`, `start ⊕ (j+1)`, … (43 R255). -/
def writeRing (d : Dir) (n : Lane) (mask : Nat) (data : List Byte) (start j : Nat) : Nat → Op Unit
  | 0 => .done ()
  | k + 1 => letI := opMonad; do
      writeRingByte d n (ringAdd mask start j) (streamByte data j)
      writeRing d n mask data start (j + 1) k

/-! ### The STOP sequence and the CorruptPointer path (42 R201, 43 R242) -/

/-- What STOP leaves in the channel table (R201): RX pointers 0; TX `tail <- head`. -/
def stoppedChan (d : Dir) (c : Chan) : Chan :=
  match d with
  | .rx => { c with head := 0, tail := 0 }
  | .tx => { c with tail := c.head }

/-- Both pointer registers are written 0, `RD` before `WR` in either direction (R201). -/
def zeroPointerRegs (n : Lane) : Dir → Op Unit
  | .rx => letI := opMonad; do
      st32 (.sw .rx n) 0
      st32 (.hw .rx n) 0
  | .tx => letI := opMonad; do
      st32 (.hw .tx n) 0
      st32 (.sw .tx n) 0

/-- The "STOP sequence" of R201. -/
def stopSequence (d : Dir) (n : Lane) : Op Unit := letI := opMonad; do
  clrEn d n
  pulse d n
  zeroPointerRegs n d
  let a ← lookBuf d n
  st32 (.base d n) a
  updateChan d n (stoppedChan d)
  updateChan d n fun c => { c with run := .idle }

/-- Emit an event that names the owner of a lane, if the lane is owned (log 17). -/
def emitOwned (d : Dir) (n : Lane) (e : Owner → Event) : Op Unit := letI := opMonad; do
  let entry ← lookChan d n
  match entry.slot with
  | .owned owner _ => emit (e owner)
  | .free => pure ()

/-- The CorruptPointer path (R242). -/
def corruptPath (d : Dir) (n : Lane) : Op Ret := letI := opMonad; do
  emit (.anomaly .corruptPointer (some d) (some n))
  stopSequence d n
  emitOwned d n fun owner => .ioError owner d n
  pure { code := .corruptPointer, value := none }

/-! ### A command's start and end (42 R190, 10_state R45, R47) -/

/-- `return Ok` without a value. -/
def okRet : Ret := { code := .ok, value := none }

/-- `return Ok(value = k)`. -/
def okValue (k : Nat) : Ret := { code := .ok, value := some k }

/-- `return <error>`. -/
def errRet (c : Code) : Ret := { code := c, value := none }

/-- The command begins: `cur` holds it and its first micro-step's index; it has read nothing yet. -/
def beginCommand (i : Instr) (s : State) : State := { s with cur := some (i, 0), seen := [] }

/-- The command ends: `Result(cmd, code, value)` is emitted and `cur` is `none` again. -/
def endCommand (i : Instr) (r : Ret) (s : State) : State :=
  { s.log (.result i r.code r.value) with cur := none, seen := [] }

/-- A whole command: its body, then its end, which is one micro-step (log 5). -/
def commandProgram (i : Instr) (body : Op Ret) : Op Unit := letI := opMonad; do
  let r ← body
  update (endCommand i r)

/-- Common check 2 of R190: while not attached every command but ATTACH faults. -/
def attachedOnly (body : Op Ret) : Op Ret := letI := opMonad; do
  let a ← lookAttached
  if a then body else faultWith .notAttached

/-- Common check 3 of R190: a lane operand that names no lane returns `InvalidChannel`, recording the
operand (R301). -/
def laneBody (n : LaneField) (body : Lane → Op Ret) : Op Ret := letI := opMonad; do
  let c ← params
  match laneOf c n with
  | some k => body k
  | none => pure { code := .invalidChannel, value := some n.val }

/-- A command without a lane operand, other than ATTACH. -/
def attachedProgram (i : Instr) (body : Op Ret) : Op Unit := commandProgram i (attachedOnly body)

/-- A command with a lane operand. -/
def laneProgram (i : Instr) (n : LaneField) (body : Lane → Op Ret) : Op Unit :=
  attachedProgram i (laneBody n body)

/-- Run a whole command. -/
def runCommand (i : Instr) (program : Op Unit) (s : State) : Host.Outcome State Fault Refusal :=
  outcomeOf (program.run (beginCommand i s))

/-! ### A direct register access (40_registers R120) -/

/-- A read the host issues: the value it returns stands in `readData` (log 19). -/
def directRead (r : Reg) (s : State) : Host.Outcome State Fault Refusal :=
  .next { afterRead r (boundary s) with readData := some (regValue r (boundary s)) }

/-- A write the host issues. -/
def directWrite (r : Reg) (v : Word) (s : State) : Host.Outcome State Fault Refusal :=
  match regWrite r v (boundary s) with
  | .ok t => .next t
  | .error e => e.outcome

/-! ### Taking the next packet (R47, R90, R95, R101) -/

/-- The answer to a packet that is no instruction: R95 and R67 fault, R101 refuses. -/
def rejected : DecodeError → Host.Outcome State Fault Refusal
  | .registerWidth => .fault .registerWidth
  | .misalignedRegister => .fault .misalignedRegister
  | .unmappedRegister => .fault .unmappedRegister
  | .illegalCommand => .refused .illegalCommandWord

/-- A step in which the control unit does nothing: the lane agents of one slot move (R20, R72). -/
def idleStep (s : State) : Host.Outcome State Fault Refusal := .next (interleave s)

/-- Put a packet where the next step takes it and runs all of it: first on the interface, between two
commands, with the control unit selected as the agent that moves (no lane-agent step is scheduled) and a
step doing one instruction (log 12, 29). -/
def placePacket (s : State) (p : Packet) : State :=
  { s with inbox := p :: s.inbox, sched := [], cur := none, seen := [], pace := .command }

end Sys2Proof.Machine
end

