-- ==== Sys2Proof/Machine/Channel.lean ====
section
/-! DEFINITION. Channel control (42_channel_control): ATTACH, DETACH, CLAIM_RX, CLAIM_TX, TRIGGER, STOP,
PAUSE, RELEASE. -/

namespace Sys2Proof.Machine

/-! ### Engine lifecycle -/

/-- ATTACH's checks of one receive ring (R192): `BaseAlign` before `Overlap`. -/
def attachCheckRing (c : Params) (n : Lane) : Op Unit := letI := opMonad; do
  faultIf (!aligned c c.rxBufPhys[n.val]) .baseAlign
  faultIf (!belowTop c .rx c.rxBufPhys[n.val]) .overlap

/-- ATTACH's checks (R192). -/
def attachChecks (c : Params) : Op Unit := letI := opMonad; do
  forEach c.lanes (attachCheckRing c)
  faultIf (!pairwiseDisjoint (windowRegion c :: rxRegions c)) .overlap

/-- ATTACH's register writes up to the clearing of stale status (R192, R342). -/
def attachConfigure (c : Params) : Op Unit := letI := opMonad; do
  st32 (.ier .tx) 0
  st32 (.ier .rx) 0
  st32 (.en .tx) 0
  st32 (.en .rx) 0
  st32 .bufSz c.sizeClass
  st32 .rxTimeout c.timeoutValue
  st32 (.rst .tx) (laneMask c)
  st32 (.rst .rx) (laneMask c)
  st32 (.rst .tx) 0
  st32 (.rst .rx) 0

/-- ATTACH programs a lane's bases (R192). -/
def attachBase (c : Params) (n : Lane) : Op Unit := letI := opMonad; do
  st32 (.base .tx n) 0
  st32 (.base .rx n) c.rxBufPhys[n.val]

/-- ATTACH discards stale status and then lets the interrupts assert the line (R192). -/
def attachInterrupts (c : Params) : Op Unit := letI := opMonad; do
  st32 (.isr .tx) (laneMask c)
  st32 (.isr .rx) (laneMask c)
  st32 (.ier .tx) (laneMask c)
  st32 (.ier .rx) (laneMask c)

/-- `buf[TX][n] <- 0`, one micro-step. -/
def clearTxBuf (n : Lane) : Op Unit := update fun s => s.setTxBuf n 0

/-- `slot`, `run`, `head`, `tail` and `work` of one lane at their initial values: one micro-step, by the
model's choice (log 5). -/
def clearEntry (d : Dir) (n : Lane) : Op Unit := updateChan d n fun _ => Chan.reset

/-- ATTACH's control-unit updates (R192). How many micro-steps they are R15 and R192 leave open; DESIGN CHOICE
(log 5): one for each channel-table entry, transmit lanes first, one for each transmit buffer, and one for
`attached`. -/
def attachTables (c : Params) : Op Unit := letI := opMonad; do
  forEach c.lanes (clearEntry .tx)
  forEach c.lanes (clearEntry .rx)
  forEach c.lanes clearTxBuf
  update fun s => { s with attached := true }

/-- ATTACH (R192). -/
def attachBody : Op Ret := letI := opMonad; do
  let c ← params
  let a ← lookAttached
  faultIf a .alreadyAttached
  attachChecks c
  attachConfigure c
  forEach c.lanes (attachBase c)
  attachInterrupts c
  attachTables c
  pure okRet

/-- ATTACH as a whole command. -/
def attachProgram : Op Unit := commandProgram .attach attachBody

/-- `ATTACH` (R192). -/
def execAttach (s : State) : Host.Outcome State Fault Refusal := runCommand .attach attachProgram s

/-- A lane's channel-table entry after RELEASE and DETACH (R203, R193). -/
def freedChan (c : Chan) : Chan := { c with slot := .free, head := 0, tail := 0, work := false }

/-- DETACH forces one lane to Stop and frees it (R193). -/
def detachLane (d : Dir) (n : Lane) : Op Unit := letI := opMonad; do
  stopSequence d n
  updateChan d n freedChan

/-- A transmit lane's base and buffer go to 0 (R193, R203). -/
def dropTxBuffer (n : Lane) : Op Unit := letI := opMonad; do
  st32 (.base .tx n) 0
  clearTxBuf n

/-- DETACH (R193). -/
def detachBody : Op Ret := letI := opMonad; do
  let c ← params
  forEach c.lanes (detachLane .tx)
  forEach c.lanes (detachLane .rx)
  forEach c.lanes dropTxBuffer
  st32 (.ier .tx) 0
  st32 (.ier .rx) 0
  update fun s => { s with attached := false }
  pure okRet

/-- DETACH as a whole command. -/
def detachProgram : Op Unit := attachedProgram .detach detachBody

/-- `DETACH` (R193). -/
def execDetach (s : State) : Host.Outcome State Fault Refusal := runCommand .detach detachProgram s

/-! ### Claiming lanes -/

/-- CLAIM_RX (R194). -/
def claimRxBody (owner : Owner) (cb : Callback) (n : Lane) : Op Ret := letI := opMonad; do
  let c ← params
  let entry ← lookChan .rx n
  if entry.slot.isOwned then pure (errRet .busy)
  else do
    updateChan .rx n fun c => { c with slot := .owned owner cb }
    pure (okValue c.rxBufPhys[n.val].toNat)

/-- CLAIM_RX as a whole command. -/
def claimRxProgram (n : LaneField) (owner : Owner) (cb : Callback) : Op Unit :=
  laneProgram (.claimRx n owner cb) n (claimRxBody owner cb)

/-- `CLAIM_RX n, owner, cb` (R194). -/
def execClaimRx (n : LaneField) (owner : Owner) (cb : Callback) (s : State) :
    Host.Outcome State Fault Refusal :=
  runCommand (.claimRx n owner cb) (claimRxProgram n owner cb) s

/-- The buffer of a CLAIM_TX fits: below the top and disjoint from the register window, every receive
ring and every owned transmit ring (R195). -/
def txBufferFits (s : State) (addr : Word) : Bool :=
  belowTop s.cfg .tx addr
    && (windowRegion s.cfg :: rxRegions s.cfg ++ ownedTxRegions s).all
        (disjoint (ringRegion s.cfg .tx addr))

/-- The check that a CLAIM_TX's buffer fits. -/
def lookFits (addr : Word) : Op Bool := .look (fun s => { flag := txBufferFits s addr }) fun x => .done x.flag

/-- CLAIM_TX (R195). -/
def claimTxBody (owner : Owner) (cb : Callback) (addr : Word) (n : Lane) : Op Ret := letI := opMonad; do
  let c ← params
  let entry ← lookChan .tx n
  if entry.slot.isOwned then pure (errRet .busy)
  else do
    faultIf (!aligned c addr) .baseAlign
    let fits ← lookFits addr
    faultIf (!fits) .overlap
    st32 (.base .tx n) addr
    update fun s => s.setTxBuf n addr
    updateChan .tx n fun c => { c with slot := .owned owner cb }
    pure okRet

/-- CLAIM_TX as a whole command. -/
def claimTxProgram (n : LaneField) (owner : Owner) (cb : Callback) (addr : Word) : Op Unit :=
  laneProgram (.claimTx n owner cb addr) n (claimTxBody owner cb addr)

/-- `CLAIM_TX n, owner, cb, addr` (R195). -/
def execClaimTx (n : LaneField) (owner : Owner) (cb : Callback) (addr : Word) (s : State) :
    Host.Outcome State Fault Refusal :=
  runCommand (.claimTx n owner cb addr) (claimTxProgram n owner cb addr) s

/-! ### Trigger, Stop, Pause, Release -/

/-- `run[d][n] <- r`. -/
def setRun (d : Dir) (n : Lane) (r : RunState) : Op Unit := updateChan d n fun c => { c with run := r }

/-- TRIGGER of a receive lane from `Idle` (R197). -/
def triggerIdleRx (n : Lane) : Op Unit := letI := opMonad; do
  pulse .rx n
  st32 (.hw .rx n) 0
  st32 (.sw .rx n) 0
  updateChan .rx n fun c => { c with head := 0, tail := 0 }
  setEn .rx n
  setRun .rx n .armed

/-- TRIGGER of a transmit lane from `Idle` (R198): `head` and `tail` are unchanged. -/
def triggerIdleTx (n : Lane) : Op Unit := letI := opMonad; do
  let entry ← lookChan .tx n
  pulse .tx n
  st32 (.hw .tx n) (toWord entry.tail)
  st32 (.sw .tx n) (toWord entry.head)
  setEn .tx n
  setRun .tx n .armed

/-- TRIGGER from `Idle` by direction. -/
def triggerIdle (n : Lane) : Dir → Op Unit
  | .rx => triggerIdleRx n
  | .tx => triggerIdleTx n

/-- TRIGGER from `Paused` (R199): no pulse and no pointer write. -/
def triggerPaused (d : Dir) (n : Lane) : Op Unit := letI := opMonad; do
  setEn d n
  setRun d n .armed

/-- TRIGGER of an owned lane by its run state (R196). -/
def triggerOwned (d : Dir) (n : Lane) : RunState → Op Ret
  | .armed => .done (errRet .alreadyOwned)
  | .idle => letI := opMonad; do
      triggerIdle n d
      pure okRet
  | .paused => letI := opMonad; do
      triggerPaused d n
      pure okRet

/-- TRIGGER (R196). -/
def triggerBody (d : Dir) (n : Lane) : Op Ret := letI := opMonad; do
  let entry ← lookChan d n
  if entry.slot.isOwned then triggerOwned d n entry.run else pure (errRet .notOwned)

/-- TRIGGER as a whole command. -/
def triggerProgram (d : Dir) (n : LaneField) : Op Unit :=
  laneProgram (.trigger d n) n (triggerBody d)

/-- `TRIGGER d, n` (R196 to R199). -/
def execTrigger (d : Dir) (n : LaneField) (s : State) : Host.Outcome State Fault Refusal :=
  runCommand (.trigger d n) (triggerProgram d n) s

/-- STOP (R201). -/
def stopBody (d : Dir) (n : Lane) : Op Ret := letI := opMonad; do
  stopSequence d n
  pure okRet

/-- STOP as a whole command. -/
def stopProgram (d : Dir) (n : LaneField) : Op Unit :=
  laneProgram (.stop d n) n (stopBody d)

/-- `STOP d, n` (R201). -/
def execStop (d : Dir) (n : LaneField) (s : State) : Host.Outcome State Fault Refusal :=
  runCommand (.stop d n) (stopProgram d n) s

/-- PAUSE (R202). -/
def pauseBody (d : Dir) (n : Lane) : Op Ret := letI := opMonad; do
  let entry ← lookChan d n
  if entry.run = .armed then do
    clrEn d n
    setRun d n .paused
    pure okRet
  else pure (errRet .invalidState)

/-- PAUSE as a whole command. -/
def pauseProgram (d : Dir) (n : LaneField) : Op Unit :=
  laneProgram (.pause d n) n (pauseBody d)

/-- `PAUSE d, n` (R202). -/
def execPause (d : Dir) (n : LaneField) (s : State) : Host.Outcome State Fault Refusal :=
  runCommand (.pause d n) (pauseProgram d n) s

/-- RELEASE's extra step for a transmit lane (R203). -/
def releaseBuffer (n : Lane) : Dir → Op Unit
  | .tx => dropTxBuffer n
  | .rx => .done ()

/-- RELEASE (R203). -/
def releaseBody (d : Dir) (n : Lane) : Op Ret := letI := opMonad; do
  let entry ← lookChan d n
  if entry.slot.isOwned then do
    stopSequence d n
    releaseBuffer n d
    updateChan d n freedChan
    pure okRet
  else pure (errRet .notOwned)

/-- RELEASE as a whole command. -/
def releaseProgram (d : Dir) (n : LaneField) : Op Unit :=
  laneProgram (.release d n) n (releaseBody d)

/-- `RELEASE d, n` (R203). -/
def execRelease (d : Dir) (n : LaneField) (s : State) : Host.Outcome State Fault Refusal :=
  runCommand (.release d n) (releaseProgram d n) s

end Sys2Proof.Machine
end

