-- ==== Sys2Proof/Machine/Ring.lean ====
section
/-! DEFINITION. The ring-buffer pointer protocol (43_ring_protocol): UPDSW, RDHW, RXDRAIN, TXPROD, TXCOMP,
WORK. -/

namespace Sys2Proof.Machine

/-! ### Interface commands -/

/-- The software index of a direction: RX `tail`, TX `head` (R243). -/
def setSoftwareIndex (d : Dir) (val : Nat) (c : Chan) : Chan :=
  match d with
  | .rx => { c with tail := val }
  | .tx => { c with head := val }

/-- UPDSW (R243). -/
def updswBody (d : Dir) (val : Word) (n : Lane) : Op Ret := letI := opMonad; do
  let c ← params
  let entry ← lookChan d n
  if !entry.slot.isOwned then pure (errRet .notOwned)
  else if val.toNat < cap c d then do
    updateChan d n (setSoftwareIndex d val.toNat)
    st32 (.sw d n) val
    pure okRet
  else pure (errRet .invalidPointer)

/-- UPDSW as a whole command. -/
def updswProgram (d : Dir) (n : LaneField) (val : Word) : Op Unit :=
  laneProgram (.updsw d n val) n (updswBody d val)

/-- `UPDSW d, n, val` (R243). -/
def execUpdsw (d : Dir) (n : LaneField) (val : Word) (s : State) : Host.Outcome State Fault Refusal :=
  runCommand (.updsw d n val) (updswProgram d n val) s

/-- RDHW (R244). -/
def rdhwBody (d : Dir) (n : Lane) : Op Ret := letI := opMonad; do
  let c ← params
  let v ← ld32 (.hw d n)
  if v.toNat < cap c d then pure (okValue v.toNat) else corruptPath d n

/-- RDHW as a whole command. -/
def rdhwProgram (d : Dir) (n : LaneField) : Op Unit :=
  laneProgram (.rdhw d n) n (rdhwBody d)

/-- `RDHW d, n` (R244). -/
def execRdhw (d : Dir) (n : LaneField) (s : State) : Host.Outcome State Fault Refusal :=
  runCommand (.rdhw d n) (rdhwProgram d n) s

/-! ### Receive drain (R245 to R252) -/

/-- `work[d][n] <- true`. -/
def setWork (d : Dir) (n : Lane) : Op Unit := updateChan d n fun c => { c with work := true }

/-- The re-check: read the hardware pointer again and reschedule if it moved (R251, R258). -/
def recheck (d : Dir) (n : Lane) (before : Word) : Op Unit := letI := opMonad; do
  let again ← ld32 (.hw d n)
  opWhen (decide (again ≠ before)) (setWork d n)

/-- The consumer stream is handed the accepted bytes (R245). -/
def deliver (n : Lane) (bytes : List Byte) : Op Unit := letI := opMonad; do
  emitOwned .rx n fun owner => .deliver owner n bytes
  emitOwned .rx n fun owner => .bytesAvailable owner n

/-- The drain of `avail > 0` bytes from index `tail` (R245). -/
def drainBytes (n : Lane) (mask tail avail : Nat) (h : Word) : Op Ret := letI := opMonad; do
  let bytes ← readRing .rx n mask tail 0 avail
  let acc ← drawAccepted avail
  opWhen (decide (0 < acc)) (deliver n (bytes.take acc))
  updateChan .rx n fun c => { c with tail := ringAdd mask tail acc }
  st32 (.sw .rx n) (toWord (ringAdd mask tail acc))
  recheck .rx n h
  pure (okValue acc)

/-- RXDRAIN once the hardware pointer `h` is read and in range (R245). -/
def drainFrom (n : Lane) (mask tail : Nat) (h : Word) : Op Ret := letI := opMonad; do
  updateChan .rx n fun c => { c with head := h.toNat }
  if ringSub mask h.toNat tail = 0 then pure (okValue 0)
  else drainBytes n mask tail (ringSub mask h.toNat tail) h

/-- RXDRAIN of a lane that is not `Idle` (R245). -/
def drainActive (n : Lane) : Op Ret := letI := opMonad; do
  let c ← params
  let h ← ld32 (.hw .rx n)
  let entry ← lookChan .rx n
  if h.toNat < cap c .rx then drainFrom n (ringMask c .rx) entry.tail h
  else corruptPath .rx n

/-- RXDRAIN (R245). -/
def rxdrainBody (n : Lane) : Op Ret := letI := opMonad; do
  let entry ← lookChan .rx n
  if entry.run = .idle then pure (okValue 0) else drainActive n

/-- RXDRAIN as a whole command. -/
def rxdrainProgram (n : LaneField) : Op Unit :=
  laneProgram (.rxdrain n) n rxdrainBody

/-- `RXDRAIN n` (R245). -/
def execRxdrain (n : LaneField) (s : State) : Host.Outcome State Fault Refusal :=
  runCommand (.rxdrain n) (rxdrainProgram n) s

/-! ### Transmit refill and completion -/

/-- `space` of a transmit lane with this channel-table entry (R241). -/
def entrySpace (c : Params) (entry : Chan) : Nat :=
  ringMask c .tx - ringSub (ringMask c .tx) entry.head entry.tail

/-- `k`, the bytes a refill copies (R255). -/
def refillCount (c : Params) (entry : Chan) (count : Nat) : Nat :=
  min (min count (entrySpace c entry)) (refillUnit c)

/-- The low-water notification (R255, R257). -/
def wakeWriter (n : Lane) (left lowWater : Nat) : Op Unit :=
  opWhen (decide (left < lowWater)) (emitOwned .tx n fun owner => .spaceAvailable owner n)

/-- Reschedule when a full unit was copied and more remains with space (R255). -/
def rescheduleRefill (c : Params) (n : Lane) (count k : Nat) : Op Unit := letI := opMonad; do
  let entry ← lookChan .tx n
  opWhen (decide (count > k ∧ k = refillUnit c ∧ entrySpace c entry > 0)) (setWork .tx n)

/-- TXPROD of an owned lane, `k` bytes of which fit (R255). -/
def refillBytes (c : Params) (n : Lane) (entry : Chan) (count k : Nat) (data : List Byte) :
    Op Ret := letI := opMonad; do
  writeRing .tx n (ringMask c .tx) data entry.head 0 k
  updateChan .tx n fun e => { e with head := ringAdd (ringMask c .tx) entry.head k }
  st32 (.sw .tx n) (toWord (ringAdd (ringMask c .tx) entry.head k))
  opWhen (decide (0 < k ∧ entry.run = .idle)) (triggerIdleTx n)
  wakeWriter n (count - k) c.lowWater
  rescheduleRefill c n count k
  pure (okValue k)

/-- TXPROD (R255). -/
def txprodBody (count : Nat) (data : List Byte) (n : Lane) : Op Ret := letI := opMonad; do
  let c ← params
  let entry ← lookChan .tx n
  if entry.slot.isOwned then refillBytes c n entry count (refillCount c entry count) data
  else pure (errRet .notOwned)

/-- TXPROD as a whole command. -/
def txprodProgram (n : LaneField) (count : Nat) (data : List Byte) : Op Unit :=
  laneProgram (.txprod n count data) n (txprodBody count data)

/-- `TXPROD n, count, data` (R255). -/
def execTxprod (n : LaneField) (count : Nat) (data : List Byte) (s : State) :
    Host.Outcome State Fault Refusal :=
  runCommand (.txprod n count data) (txprodProgram n count data) s

/-- `head ≠ tail`: re-arm transmission by rewriting `TX_WR[n]` (R258). -/
def rearm (n : Lane) : Op Unit := letI := opMonad; do
  let entry ← lookChan .tx n
  opWhen (decide (entry.head ≠ entry.tail)) (st32 (.sw .tx n) (toWord entry.head))

/-- TXCOMP once the hardware pointer `r` is read and accepted (R258). -/
def completeTo (n : Lane) (r : Word) : Op Ret := letI := opMonad; do
  updateChan .tx n fun c => { c with tail := r.toNat }
  rearm n
  recheck .tx n r
  pure (okValue r.toNat)

/-- The two tests of R258 a hardware pointer must pass: in range, and on the forward path from `tail` to
`head`. -/
def consumedOk (c : Params) (entry : Chan) (r : Nat) : Bool :=
  decide (r < cap c .tx)
    && decide (ringSub (ringMask c .tx) r entry.tail ≤ ringSub (ringMask c .tx) entry.head entry.tail)

/-- TXCOMP of a lane that is not `Idle` (R258). -/
def completeActive (n : Lane) : Op Ret := letI := opMonad; do
  let c ← params
  let r ← ld32 (.hw .tx n)
  let entry ← lookChan .tx n
  if consumedOk c entry r.toNat then completeTo n r else corruptPath .tx n

/-- TXCOMP (R258). -/
def txcompBody (n : Lane) : Op Ret := letI := opMonad; do
  let entry ← lookChan .tx n
  if entry.run = .idle then pure (okValue entry.tail) else completeActive n

/-- TXCOMP as a whole command. -/
def txcompProgram (n : LaneField) : Op Unit :=
  laneProgram (.txcomp n) n txcompBody

/-- `TXCOMP n` (R258). -/
def execTxcomp (n : LaneField) (s : State) : Host.Outcome State Fault Refusal :=
  runCommand (.txcomp n) (txcompProgram n) s

/-! ### The deferred worker (R262) -/

/-- The refill part of a transmit worker (R262, R256). -/
def workRefill (n : Lane) : Op Ret := letI := opMonad; do
  let offer ← drawStream
  let entry ← lookChan .tx n
  if entry.slot.isOwned then do
    let _ ← txprodBody offer.1 offer.2 n
    pure okRet
  else pure okRet

/-- The transmit job: TXCOMP's body, then, unless it returned `CorruptPointer`, the refill (R262). -/
def workTx (n : Lane) : Op Ret := letI := opMonad; do
  let r ← txcompBody n
  if r.code = .corruptPointer then pure r else workRefill n

/-- The job of a direction. -/
def workJob (n : Lane) : Dir → Op Ret
  | .rx => rxdrainBody n
  | .tx => workTx n

/-- WORK (R262): the flag is cleared before the job. -/
def workBody (d : Dir) (n : Lane) : Op Ret := letI := opMonad; do
  let entry ← lookChan d n
  if entry.work then do
    updateChan d n fun c => { c with work := false }
    workJob n d
  else pure okRet

/-- WORK as a whole command. -/
def workProgram (d : Dir) (n : LaneField) : Op Unit :=
  laneProgram (.work d n) n (workBody d)

/-- `WORK d, n` (R262). -/
def execWork (d : Dir) (n : LaneField) (s : State) : Host.Outcome State Fault Refusal :=
  runCommand (.work d n) (workProgram d n) s

end Sys2Proof.Machine
end

