-- ==== Sys2Proof/Machine/Dispatcher.lean ====
section
/-! DEFINITION. The interrupt dispatcher and acknowledger (44_dispatcher): interrupt entry is the start of
DISPATCH, its return the end of it (60_exceptions R310, R311). -/

namespace Sys2Proof.Machine

/-- The resynchronisation of an `Idle` receive lane (R284). -/
def resync (n : Lane) : Op Unit := letI := opMonad; do
  let c ← params
  let h ← ld32 (.hw .rx n)
  opWhen (decide (h.toNat < cap c .rx))
    (updateChan .rx n fun c => { c with head := h.toNat, tail := h.toNat })

/-- `DEFENSIVE(d, n)` (R284). -/
def defensive (d : Dir) (n : Lane) : Op Unit := letI := opMonad; do
  let entry ← lookChan d n
  emit (.anomaly .disabledLaneCompletion (some d) (some n))
  clrEn d n
  opWhen (decide (d = .rx ∧ entry.run = .idle)) (resync n)

/-- The completion callback: its event and the lane's work flag (R283, R287; an unowned lane, which no
command leaves `Armed`, has no callback, log 17). -/
def invokeCallback (d : Dir) (n : Lane) (v : Nat) : Op Unit := letI := opMonad; do
  let entry ← lookChan d n
  match entry.slot with
  | .owned owner cb => do
      emit (.callback owner cb d n v)
      setWork d n
  | .free => setWork d n

/-- The CorruptPointer path inside DISPATCH: it ends this lane's completion and returns nothing (R283). -/
def corruptLane (d : Dir) (n : Lane) : Op Unit := letI := opMonad; do
  let _ ← corruptPath d n
  pure ()

/-- The completion of an `Armed` lane (R283). -/
def completeArmed (d : Dir) (n : Lane) : Op Unit := letI := opMonad; do
  let c ← params
  let v ← ld32 (.hw d n)
  if v.toNat < cap c d then invokeCallback d n v.toNat else corruptLane d n

/-- `COMPLETE(d, n)` (R283). -/
def complete (d : Dir) (n : Lane) : Op Unit := letI := opMonad; do
  let entry ← lookChan d n
  if entry.run = .armed then completeArmed d n else defensive d n

/-- Acknowledge, then complete (R280, R282). -/
def acknowledge (d : Dir) (n : Lane) : Op Unit := letI := opMonad; do
  ack d n
  complete d n

/-- One lane of the snapshot. -/
def serviceLane (d : Dir) (snapshot : Word) (n : Lane) : Op Unit :=
  opWhen (testLane snapshot n) (acknowledge d n)

/-- A status word with reserved bits set is logged (R285). -/
def logReserved (c : Params) (d : Dir) (snapshot : Word) : Op Unit :=
  opWhen (hasReserved c snapshot) (emit (.anomaly .reservedStatusBit (some d) none))

/-- DISPATCH (R280): the two snapshots, transmit first; transmit lanes, then receive lanes, ascending. -/
def dispatchBody : Op Ret := letI := opMonad; do
  let c ← params
  let tx ← ld32 (.isr .tx)
  let rx ← ld32 (.isr .rx)
  logReserved c .tx tx
  logReserved c .rx rx
  if tx &&& laneMask c = 0 ∧ rx &&& laneMask c = 0 then do
    emit (.anomaly .spuriousInterrupt none none)
    pure (okValue 0)
  else do
    forEach c.lanes (serviceLane .tx tx)
    forEach c.lanes (serviceLane .rx rx)
    pure (okValue 1)

/-- DISPATCH as a whole command. -/
def dispatchProgram : Op Unit := attachedProgram .dispatch dispatchBody

/-- `DISPATCH` (R280). -/
def execDispatch (s : State) : Host.Outcome State Fault Refusal := runCommand .dispatch dispatchProgram s

end Sys2Proof.Machine
end

