-- ==== Sys2Proof/Machine/Mmio.lean ====
section
/-! DEFINITION. The register accesses (40_registers R120 to R152): one meaning for each row, over the
shared register read and write. -/

namespace Sys2Proof.Machine

/-- `LD32` `TX_EN` (R121). -/
def execLd32TxEn (s : State) : Host.Outcome State Fault Refusal := directRead (.en .tx) s

/-- `ST32` `TX_EN` (R122). -/
def execSt32TxEn (v : Word) (s : State) : Host.Outcome State Fault Refusal := directWrite (.en .tx) v s

/-- `LD32` `RX_EN` (R123). -/
def execLd32RxEn (s : State) : Host.Outcome State Fault Refusal := directRead (.en .rx) s

/-- `ST32` `RX_EN` (R124). -/
def execSt32RxEn (v : Word) (s : State) : Host.Outcome State Fault Refusal := directWrite (.en .rx) v s

/-- `LD32` `BUF_SZ` (R125). -/
def execLd32BufSz (s : State) : Host.Outcome State Fault Refusal := directRead (.bufSz) s

/-- `ST32` `BUF_SZ` (R126). -/
def execSt32BufSz (v : Word) (s : State) : Host.Outcome State Fault Refusal := directWrite (.bufSz) v s

/-- `LD32` `RX_TIMEOUT` (R127). -/
def execLd32RxTimeout (s : State) : Host.Outcome State Fault Refusal := directRead (.rxTimeout) s

/-- `ST32` `RX_TIMEOUT` (R128). -/
def execSt32RxTimeout (v : Word) (s : State) : Host.Outcome State Fault Refusal := directWrite (.rxTimeout) v s

/-- `LD32` `TX_RST` (R129). -/
def execLd32TxRst (s : State) : Host.Outcome State Fault Refusal := directRead (.rst .tx) s

/-- `ST32` `TX_RST` (R130). -/
def execSt32TxRst (v : Word) (s : State) : Host.Outcome State Fault Refusal := directWrite (.rst .tx) v s

/-- `LD32` `RX_RST` (R131). -/
def execLd32RxRst (s : State) : Host.Outcome State Fault Refusal := directRead (.rst .rx) s

/-- `ST32` `RX_RST` (R132). -/
def execSt32RxRst (v : Word) (s : State) : Host.Outcome State Fault Refusal := directWrite (.rst .rx) v s

/-- `LD32` `TX_IER` (R133). -/
def execLd32TxIer (s : State) : Host.Outcome State Fault Refusal := directRead (.ier .tx) s

/-- `ST32` `TX_IER` (R134). -/
def execSt32TxIer (v : Word) (s : State) : Host.Outcome State Fault Refusal := directWrite (.ier .tx) v s

/-- `LD32` `TX_ISR` (R135). -/
def execLd32TxIsr (s : State) : Host.Outcome State Fault Refusal := directRead (.isr .tx) s

/-- `ST32` `TX_ISR` (R136). -/
def execSt32TxIsr (v : Word) (s : State) : Host.Outcome State Fault Refusal := directWrite (.isr .tx) v s

/-- `LD32` `RX_IER` (R137). -/
def execLd32RxIer (s : State) : Host.Outcome State Fault Refusal := directRead (.ier .rx) s

/-- `ST32` `RX_IER` (R138). -/
def execSt32RxIer (v : Word) (s : State) : Host.Outcome State Fault Refusal := directWrite (.ier .rx) v s

/-- `LD32` `RX_ISR` (R139). -/
def execLd32RxIsr (s : State) : Host.Outcome State Fault Refusal := directRead (.isr .rx) s

/-- `ST32` `RX_ISR` (R140). -/
def execSt32RxIsr (v : Word) (s : State) : Host.Outcome State Fault Refusal := directWrite (.isr .rx) v s

/-- `LD32` `TX_RD[n]` (R141). -/
def execLd32TxRd (n : Lane) (s : State) : Host.Outcome State Fault Refusal := directRead (.hw .tx n) s

/-- `ST32` `TX_RD[n]` (R142). -/
def execSt32TxRd (n : Lane) (v : Word) (s : State) : Host.Outcome State Fault Refusal := directWrite (.hw .tx n) v s

/-- `LD32` `TX_WR[n]` (R143). -/
def execLd32TxWr (n : Lane) (s : State) : Host.Outcome State Fault Refusal := directRead (.sw .tx n) s

/-- `ST32` `TX_WR[n]` (R144). -/
def execSt32TxWr (n : Lane) (v : Word) (s : State) : Host.Outcome State Fault Refusal := directWrite (.sw .tx n) v s

/-- `LD32` `TX_BASE[n]` (R145). -/
def execLd32TxBase (n : Lane) (s : State) : Host.Outcome State Fault Refusal := directRead (.base .tx n) s

/-- `ST32` `TX_BASE[n]` (R146). -/
def execSt32TxBase (n : Lane) (v : Word) (s : State) : Host.Outcome State Fault Refusal := directWrite (.base .tx n) v s

/-- `LD32` `RX_RD[n]` (R147). -/
def execLd32RxRd (n : Lane) (s : State) : Host.Outcome State Fault Refusal := directRead (.sw .rx n) s

/-- `ST32` `RX_RD[n]` (R148). -/
def execSt32RxRd (n : Lane) (v : Word) (s : State) : Host.Outcome State Fault Refusal := directWrite (.sw .rx n) v s

/-- `LD32` `RX_WR[n]` (R149). -/
def execLd32RxWr (n : Lane) (s : State) : Host.Outcome State Fault Refusal := directRead (.hw .rx n) s

/-- `ST32` `RX_WR[n]` (R150). -/
def execSt32RxWr (n : Lane) (v : Word) (s : State) : Host.Outcome State Fault Refusal := directWrite (.hw .rx n) v s

/-- `LD32` `RX_BASE[n]` (R151). -/
def execLd32RxBase (n : Lane) (s : State) : Host.Outcome State Fault Refusal := directRead (.base .rx n) s

/-- `ST32` `RX_BASE[n]` (R152). -/
def execSt32RxBase (n : Lane) (v : Word) (s : State) : Host.Outcome State Fault Refusal := directWrite (.base .rx n) v s

end Sys2Proof.Machine
end

