-- ==== Sys2Proof/Machine/Dispatch.lean ====
section
/-! DEFINITION. The meaning of an instruction, one arm for each constructor. -/

namespace Sys2Proof.Machine

def exec (i : Instr) (s : State) : Host.Outcome State Fault Refusal :=
  match i with
  | .ld32TxEn => Sys2Proof.Machine.execLd32TxEn s
  | .st32TxEn v => Sys2Proof.Machine.execSt32TxEn v s
  | .ld32RxEn => Sys2Proof.Machine.execLd32RxEn s
  | .st32RxEn v => Sys2Proof.Machine.execSt32RxEn v s
  | .ld32BufSz => Sys2Proof.Machine.execLd32BufSz s
  | .st32BufSz v => Sys2Proof.Machine.execSt32BufSz v s
  | .ld32RxTimeout => Sys2Proof.Machine.execLd32RxTimeout s
  | .st32RxTimeout v => Sys2Proof.Machine.execSt32RxTimeout v s
  | .ld32TxRst => Sys2Proof.Machine.execLd32TxRst s
  | .st32TxRst v => Sys2Proof.Machine.execSt32TxRst v s
  | .ld32RxRst => Sys2Proof.Machine.execLd32RxRst s
  | .st32RxRst v => Sys2Proof.Machine.execSt32RxRst v s
  | .ld32TxIer => Sys2Proof.Machine.execLd32TxIer s
  | .st32TxIer v => Sys2Proof.Machine.execSt32TxIer v s
  | .ld32TxIsr => Sys2Proof.Machine.execLd32TxIsr s
  | .st32TxIsr v => Sys2Proof.Machine.execSt32TxIsr v s
  | .ld32RxIer => Sys2Proof.Machine.execLd32RxIer s
  | .st32RxIer v => Sys2Proof.Machine.execSt32RxIer v s
  | .ld32RxIsr => Sys2Proof.Machine.execLd32RxIsr s
  | .st32RxIsr v => Sys2Proof.Machine.execSt32RxIsr v s
  | .ld32TxRd n => Sys2Proof.Machine.execLd32TxRd n s
  | .st32TxRd n v => Sys2Proof.Machine.execSt32TxRd n v s
  | .ld32TxWr n => Sys2Proof.Machine.execLd32TxWr n s
  | .st32TxWr n v => Sys2Proof.Machine.execSt32TxWr n v s
  | .ld32TxBase n => Sys2Proof.Machine.execLd32TxBase n s
  | .st32TxBase n v => Sys2Proof.Machine.execSt32TxBase n v s
  | .ld32RxRd n => Sys2Proof.Machine.execLd32RxRd n s
  | .st32RxRd n v => Sys2Proof.Machine.execSt32RxRd n v s
  | .ld32RxWr n => Sys2Proof.Machine.execLd32RxWr n s
  | .st32RxWr n v => Sys2Proof.Machine.execSt32RxWr n v s
  | .ld32RxBase n => Sys2Proof.Machine.execLd32RxBase n s
  | .st32RxBase n v => Sys2Proof.Machine.execSt32RxBase n v s
  | .attach => Sys2Proof.Machine.execAttach s
  | .detach => Sys2Proof.Machine.execDetach s
  | .claimTx n owner cb addr => Sys2Proof.Machine.execClaimTx n owner cb addr s
  | .claimRx n owner cb => Sys2Proof.Machine.execClaimRx n owner cb s
  | .trigger d n => Sys2Proof.Machine.execTrigger d n s
  | .stop d n => Sys2Proof.Machine.execStop d n s
  | .pause d n => Sys2Proof.Machine.execPause d n s
  | .release d n => Sys2Proof.Machine.execRelease d n s
  | .updsw d n val => Sys2Proof.Machine.execUpdsw d n val s
  | .rdhw d n => Sys2Proof.Machine.execRdhw d n s
  | .dispatch => Sys2Proof.Machine.execDispatch s
  | .rxdrain n => Sys2Proof.Machine.execRxdrain n s
  | .txprod n count data => Sys2Proof.Machine.execTxprod n count data s
  | .txcomp n => Sys2Proof.Machine.execTxcomp n s
  | .work d n => Sys2Proof.Machine.execWork d n s

end Sys2Proof.Machine
end

