-- ==== Sys2Proof/Machine/Micro.lean ====
section
/-! DEFINITION. Steps of one agent at a time (10_state R20, R47; 20_memory R72, R74): a running command takes
its next micro-step, and each lane-agent step is a step of its own. -/

namespace Sys2Proof.Machine

/-- The pseudocode of a command of the control unit; none of a direct register access (R3). -/
def commandOf : Instr → Option (Op Unit)
  | .ld32TxEn | .st32TxEn _ | .ld32RxEn | .st32RxEn _ => none
  | .ld32BufSz | .st32BufSz _ | .ld32RxTimeout | .st32RxTimeout _ => none
  | .ld32TxRst | .st32TxRst _ | .ld32RxRst | .st32RxRst _ => none
  | .ld32TxIer | .st32TxIer _ | .ld32TxIsr | .st32TxIsr _ => none
  | .ld32RxIer | .st32RxIer _ | .ld32RxIsr | .st32RxIsr _ => none
  | .ld32TxRd _ | .st32TxRd _ _ | .ld32TxWr _ | .st32TxWr _ _ | .ld32TxBase _ | .st32TxBase _ _ => none
  | .ld32RxRd _ | .st32RxRd _ _ | .ld32RxWr _ | .st32RxWr _ _ | .ld32RxBase _ | .st32RxBase _ _ => none
  | .attach => some attachProgram
  | .detach => some detachProgram
  | .claimTx n owner cb addr => some (claimTxProgram n owner cb addr)
  | .claimRx n owner cb => some (claimRxProgram n owner cb)
  | .trigger d n => some (triggerProgram d n)
  | .stop d n => some (stopProgram d n)
  | .pause d n => some (pauseProgram d n)
  | .release d n => some (releaseProgram d n)
  | .updsw d n val => some (updswProgram d n val)
  | .rdhw d n => some (rdhwProgram d n)
  | .dispatch => some dispatchProgram
  | .rxdrain n => some (rxdrainProgram n)
  | .txprod n count data => some (txprodProgram n count data)
  | .txcomp n => some (txcompProgram n)
  | .work d n => some (workProgram d n)

/-- What is left of the command in `cur`, which has read `seen` (log 28). -/
def pendingProgram (s : State) (i : Instr) : Op Unit :=
  match commandOf i with
  | some x => x.resume s.cfg s.seen
  | none => .done ()

/-- The first micro-step of an instruction that a packet brought; a direct register access is one step
(R120). -/
def startInstruction (i : Instr) (s : State) : Host.Outcome State Fault Refusal :=
  match commandOf i with
  | some x => x.micro (beginCommand i s)
  | none => exec i s

/-- A packet is taken off the interface: what is no instruction is rejected (R95, R101), an instruction
goes to `k`. -/
def takePacket (p : Packet) (rest : List Packet) (s : State)
    (k : Instr → State → Host.Outcome State Fault Refusal) : Host.Outcome State Fault Refusal :=
  match decode s.cfg.numLanes p with
  | .error e => rejected e
  | .ok i => k i { s with inbox := rest }

/-- The control unit's turn, one micro-step (R47): the running command's next, or the first of the next
packet's instruction; with neither it does nothing. -/
def controlTurn (s : State) : Host.Outcome State Fault Refusal :=
  match s.cur, s.inbox with
  | some (i, _), _ => (pendingProgram s i).micro s
  | none, p :: rest => takePacket p rest s startInstruction
  | none, [] => idleStep s

/-- One atomic step (R72): the next lane-agent step of the schedule's head slot, or, that slot being used
up, the control unit's turn. -/
def atomicStep (s : State) : Host.Outcome State Fault Refusal :=
  match s.sched with
  | (l :: ls) :: rest => .next (laneStep { s with sched := ls :: rest } l)
  | [] :: _ => controlTurn s
  | [] => controlTurn s

/-- One instruction in one step: the next packet's, or what is left of the command in `cur`; with neither
only lane agents move. -/
def commandStep (s : State) : Host.Outcome State Fault Refusal :=
  match s.cur, s.inbox with
  | some (i, _), _ => outcomeOf ((pendingProgram s i).run s)
  | none, p :: rest => takePacket p rest s exec
  | none, [] => idleStep s

/-- A step of an unmarked state. -/
def paceStep (s : State) : Host.Outcome State Fault Refusal :=
  match s.pace with
  | .atomic => atomicStep s
  | .command => commandStep s

end Sys2Proof.Machine
end

