-- ==== Sys2Proof/Machine/Step.lean ====
section
/-! DEFINITION. One step of the machine, and where its next instruction is put. -/

namespace Sys2Proof.Machine

/-- One step. A faulted state "takes no further step" (60_exceptions R306) and a refused one neither (R307).
Another takes one atomic step, or one instruction, by its pace (log 29). -/
def step (s : State) : Host.Outcome State Fault Refusal :=
  match s.faulted, s.refused with
  | some r, _ => .fault r
  | none, true => .refused .refusalMarked
  | none, false => paceStep s

/-- `s` with the packet of a table word standing first on the host's interface and the next step made to
run it (log 12). A number that is no word of a packet leaves the interface empty. -/
def State.withFetchWord (s : State) (nbits w : Nat) : State :=
  match tablePacket nbits w with
  | some p => placePacket s p
  | none => { s with inbox := [], sched := [] }

end Sys2Proof.Machine
end

