-- ==== Sys2Proof/Safety.lean ====
section
/-! DEFINITION. What claims speak about: the part of the state lane agents never write (41_engine R160),
the invariants (10_state R49 and the register rules), the marks of R48, command contexts (60 R313), and
executions with the fairness obligations of R167, R168, R171 and R262. -/

namespace Sys2Proof.Machine

/-! ### What lane agents never write -/

/-- A direction's registers less its status word and hardware pointers. -/
def Bank.controlPart (b : Bank) : Bank := { b with isr := 0, hw := perLane 0 }

/-- The state less everything a lane agent may write (R160: hardware pointers, status bits, ring bytes,
`tx_moved`, the history) and less the model's own bookkeeping (schedule, draws, `cur`, `seen`). Two states with
the same control part agree on every enable, reset, interrupt-enable, base and software-pointer register,
on `BUF_SZ` and `RX_TIMEOUT`, and on all control-unit state but the history. -/
def controlPart (s : State) : State :=
  { s with
    tx := s.tx.controlPart
    rx := s.rx.controlPart
    txMoved := perLane false
    mem := []
    hist := []
    cur := none
    seen := []
    sched := []
    draws := { reserved := [], accepted := [], stream := [], count := 0 } }

/-! ### What commands leave -/

/-- The history replaced. -/
def State.setHist (s : State) (h : List Event) : State := { s with hist := h }

/-- `tx_moved[n]` cleared, on a transmit lane (R176). -/
def State.withStill (s : State) (d : Dir) (n : Lane) : State :=
  match d with
  | .tx => { s with txMoved := s.txMoved.set n.val false }
  | .rx => s

/-- What a reset pulse of lane `(d, n)` leaves (30_encoding R104 PULSE, R130, R132). -/
def pulsed (s : State) (d : Dir) (n : Lane) : State :=
  (((s.withRst d 0).withHw d n 0).withSw d n 0).withStill d n

/-- What the STOP sequence leaves (R201, R345): one masked read drawn, the enable bit 0, no reset bit, both
pointers 0, the base the ring's, the channel table as R201 says, the run state `Idle`. -/
def stopped (s : State) (d : Dir) (n : Lane) : State :=
  ((pulsed ((dropReserved s).withEn d (withoutLaneBit s.cfg (s.bank d).en n)) d n).withBase d n (s.buf d n)).setChan
    d n { stoppedChan d (s.chan d n) with run := .idle }

/-- What TRIGGER from `Idle` leaves (R197, R198): the pointers reprogrammed, the enable bit 1, `Armed`. -/
def triggered (s : State) (n : Lane) : Dir → State
  | .rx =>
      ((pulsed (dropReserved s) .rx n).withEn .rx (withLaneBit s.cfg (s.bank .rx).en n)).setChan .rx n
        { s.chan .rx n with head := 0, tail := 0, run := .armed }
  | .tx =>
      ((((pulsed (dropReserved s) .tx n).withHw .tx n (toWord (s.chan .tx n).tail)).withSw .tx n
        (toWord (s.chan .tx n).head)).withEn .tx (withLaneBit s.cfg (s.bank .tx).en n)).setChan .tx n
        { s.chan .tx n with run := .armed }

/-- A software-pointer write as a command makes it: ignored while the lane's reset bit is 1 (R144, R148). -/
def published (s : State) (d : Dir) (n : Lane) (v : Nat) : State :=
  if laneInReset s d n then s else s.withSw d n (toWord v)

/-- The ring bytes of lane `(d, n)` at `start`, `start ⊕ 1`, …, as the control unit reads them (R63). -/
def ringBytes (s : State) (d : Dir) (n : Lane) (start k : Nat) : List Byte :=
  (List.range k).map fun i => memRead s.mem (ringAddress s d n (ringAdd (ringMask s.cfg d) start i))

/-- What RXDRAIN hands to the consumer stream and announces when it accepted `bytes` (R245). -/
def drainEvents (owner : Owner) (n : Lane) (bytes : List Byte) : List Event :=
  if bytes = [] then [] else [.deliver owner n bytes, .bytesAvailable owner n]

/-- What RXDRAIN leaves when it read the hardware pointer `h`, the stream took `acc` bytes, and the work
flag ends as `w` (R245): `head`, `tail` and `RX_RD[n]`. -/
def drained (s : State) (n : Lane) (h acc : Nat) (w : Bool) : State :=
  (published (dropAccepted s) .rx n (ringAdd (ringMask s.cfg .rx) (s.chan .rx n).tail acc)).setChan .rx n
    { s.chan .rx n with
      head := h
      tail := ringAdd (ringMask s.cfg .rx) (s.chan .rx n).tail acc
      work := w }

/-- What TXCOMP leaves when it read the hardware pointer `r` and the work flag ends as `w` (R258): `tail`, and
`TX_WR[n]` written with `head` when bytes remain. -/
def completed (s : State) (n : Lane) (r : Nat) (w : Bool) : State :=
  (if (s.chan .tx n).head = r then s else published s .tx n (s.chan .tx n).head).setChan .tx n
    { s.chan .tx n with tail := r, work := w }

/-- `k` bytes of `data`, missing ones free values (log 9), put into the ring of lane `(d, n)` from index
`start` on (R255). -/
def ringFilled (s : State) (d : Dir) (n : Lane) (start : Nat) (data : List Byte) (k : Nat) : Memory :=
  (List.range k).foldl
    (fun m i => memWrite m (ringAddress s d n (ringAdd (ringMask s.cfg d) start i)) (streamByte data i)) s.mem

/-- The ring bytes, `head` and `TX_WR[n]` after TXPROD of `k` bytes (R255). -/
def produced (s : State) (n : Lane) (data : List Byte) (k : Nat) : State :=
  (published (s.setMem (ringFilled s .tx n (s.chan .tx n).head data k)) .tx n
      (ringAdd (ringMask s.cfg .tx) (s.chan .tx n).head k)).setChan .tx n
    { s.chan .tx n with head := ringAdd (ringMask s.cfg .tx) (s.chan .tx n).head k }

/-- The lane triggered by TXPROD when it is `Idle` and bytes were produced (R255). -/
def startedIfIdle (s : State) (n : Lane) (k : Nat) : State :=
  if 0 < k ∧ (s.chan .tx n).run = .idle then triggered s n .tx else s

/-- TXPROD's low-water notification (R257). -/
def wakeEvents (s : State) (owner : Owner) (n : Lane) (left : Nat) : List Event :=
  if left < s.cfg.lowWater then [.spaceAvailable owner n] else []

/-- TXPROD's rescheduling (R255): a full unit was copied, more is pending and there is space. -/
def refillAgain (s : State) (n : Lane) (count k : Nat) : Bool :=
  decide (count > k ∧ k = refillUnit s.cfg ∧ spaceCount s .tx n > 0)

/-- What TXPROD of `count` bytes leaves, `k` of them copied (R255). -/
def refilled (s : State) (n : Lane) (count : Nat) (data : List Byte) (k : Nat) : State :=
  let u := startedIfIdle (produced s n data k) n k
  u.setChan .tx n
    { u.chan .tx n with work := (u.chan .tx n).work || refillAgain (produced s n data k) n count k }

/-! ### What DISPATCH leaves of one lane (44_dispatcher R283, R284) -/

/-- The completion of an acknowledged lane that takes the CorruptPointer path: `Armed`, its hardware pointer
out of range (R283). -/
def corruptCompletion (s : State) (d : Dir) (n : Lane) : Bool :=
  enabled s d n && !decide ((s.bank d).hw[n.val].toNat < cap s.cfg d)

/-- The events of an acknowledged lane's completion (R283, R284). -/
def completionEvents (s : State) (d : Dir) (n : Lane) : List Event :=
  if !enabled s d n then [.anomaly .disabledLaneCompletion (some d) (some n)]
  else
    match corruptCompletion s d n, (s.chan d n).slot with
    | true, .owned owner _ => [.anomaly .corruptPointer (some d) (some n), .ioError owner d n]
    | true, .free => [.anomaly .corruptPointer (some d) (some n)]
    | false, .owned owner cb => [.callback owner cb d n (s.bank d).hw[n.val].toNat]
    | false, .free => []

/-- An `Idle` receive lane whose hardware pointer is in range is resynchronised (R284). -/
def resyncedEntry (s : State) (d : Dir) (n : Lane) : Chan :=
  if d = .rx ∧ (s.chan d n).run = .idle ∧ (s.bank d).hw[n.val].toNat < cap s.cfg d then
    { s.chan d n with head := (s.bank d).hw[n.val].toNat, tail := (s.bank d).hw[n.val].toNat }
  else s.chan d n

/-- An acknowledged lane's channel-table entry after its completion (R283, R284). -/
def completionEntry (s : State) (d : Dir) (n : Lane) : Chan :=
  if !enabled s d n then resyncedEntry s d n
  else if corruptCompletion s d n then { stoppedChan d (s.chan d n) with run := .idle }
  else { s.chan d n with work := true }

/-- The lanes of a direction whose status bit is set, ascending. -/
def pendingLanes (s : State) (d : Dir) : List Lane := s.cfg.lanes.filter (sourcePending s d)

/-- The anomalies of the reserved bits that DISPATCH's two status reads draw (R285). -/
def reservedEvents (s : State) : List Event :=
  (if hasReserved s.cfg (nextReserved s) then [.anomaly .reservedStatusBit (some .tx) none] else []) ++
  (if hasReserved s.cfg (nextReserved (dropReserved s)) then [.anomaly .reservedStatusBit (some .rx) none]
    else [])

/-! ### How a command ends -/

/-- The event is the block's own, not a byte that a lane agent moved over the line. -/
def Event.isOwn : Event → Bool
  | .lineTx _ _ | .lineRx _ _ => false
  | _ => true

/-- How a command ended: from `s`, with result `r` and the events `own`, in `t`, where `u` is what its own
accesses make of `s` when no lane agent moves, the history apart. Whatever the lane agents did between
its micro-steps (R74), `t` agrees with `u` on the control part; the history grew by `own`, in that
order, among line bytes, and then by the command's `Result` (R190); and no command is half done. With no
lane-agent step scheduled `t` is `u` itself with those events. -/
structure Ended (i : Instr) (r : Ret) (own : List Event) (s u t : State) : Prop where
  control : controlPart t = controlPart u
  events : ∃ es, t.hist = s.hist ++ es ++ [.result i r.code r.value] ∧ es.filter Event.isOwn = own
  between : t.cur = none ∧ t.seen = []
  quiet : s.sched = [] → t = endCommand i r (u.setHist (s.hist ++ own))

/-- The same end under another command's name: the `Result` that closes the history is replaced. -/
def relabelled (t : State) (i : Instr) (r : Ret) : State :=
  { t with hist := t.hist.dropLast ++ [.result i r.code r.value] }

/-- What a command leaves that makes no access: its `Result` event (R190, R303). -/
def answeredOnly (s : State) (i : Instr) (c : Code) (v : Option Nat) : State :=
  { interleave s with hist := (interleave s).hist ++ [.result i c v], cur := none, seen := [] }

/-! ### Whose turn it is -/

/-- The next step of an unmarked state is the control unit's: at command pace each is, at atomic pace once
the lane-agent steps of the head slot are used up (log 4, 29). -/
def controlMoves (s : State) : Bool :=
  match s.pace, s.sched with
  | .atomic, (_ :: _) :: _ => false
  | _, _ => true

/-! ### Commands and contexts -/

/-- The instruction is a command of the control unit, not a direct register access (R3). -/
def isCommand : Instr → Bool
  | .attach | .detach | .dispatch => true
  | .claimTx _ _ _ _ | .claimRx _ _ _ => true
  | .trigger _ _ | .stop _ _ | .pause _ _ | .release _ _ => true
  | .updsw _ _ _ | .rdhw _ _ | .rxdrain _ | .txprod _ _ _ | .txcomp _ | .work _ _ => true
  | _ => false

/-- The source's two execution contexts (R20, R313), a property of commands. -/
inductive Context where
  /-- DISPATCH and the callbacks it invokes -/
  | interrupt
  /-- every other command -/
  | workerOrPort
deriving DecidableEq, Repr

/-- The context of a command (R313). -/
def contextOf : Instr → Context
  | .dispatch => .interrupt
  | _ => .workerOrPort

/-! ### Invariants -/

/-- The software index a direction publishes in `SWPTR(d, n)`: RX `tail`, TX `head` (R49 clause 5). -/
def softwareIndex (d : Dir) (c : Chan) : Nat :=
  match d with
  | .rx => c.tail
  | .tx => c.head

/-- What holds of a lane in every state of every run, direct register accesses included. -/
structure LaneCore (s : State) (d : Dir) (n : Lane) : Prop where
  /-- R26, R27: while the reset bit is 1 both pointers are held at 0 -/
  heldInReset : laneInReset s d n = true → (s.bank d).hw[n.val] = 0 ∧ (s.bank d).sw[n.val] = 0
  /-- R33, R35: the software pointer is an index of the ring -/
  swInRange : (s.bank d).sw[n.val].toNat < cap s.cfg d
  /-- R32, R36, R172: so is the hardware pointer, unless the hardware may corrupt it -/
  hwInRange : s.cfg.hwMayCorrupt = false → (s.bank d).hw[n.val].toNat < cap s.cfg d
  /-- R66: a base is a multiple of `BUF_ALIGN` -/
  baseAligned : aligned s.cfg (s.bank d).base[n.val] = true
  /-- R43, R49 clause 3 -/
  headInRange : (s.chan d n).head < cap s.cfg d
  /-- R43, R49 clause 3 -/
  tailInRange : (s.chan d n).tail < cap s.cfg d

/-- What holds in every state of every run, also between two micro-steps of a command, whatever the host
issues. -/
structure CoreParts (s : State) : Prop where
  /-- memory keeps its canonical form -/
  memCanonical : Memory.wf s.mem
  /-- R22: bits 31:N of the enable registers are 0 -/
  enLegal : ∀ d, hasReserved s.cfg (s.bank d).en = false
  /-- R26: of the reset registers -/
  rstLegal : ∀ d, hasReserved s.cfg (s.bank d).rst = false
  /-- R28: of the interrupt-enable registers -/
  ierLegal : ∀ d, hasReserved s.cfg (s.bank d).ier = false
  lane : ∀ d n, LaneCore s d n

/-- What holds between two commands, whatever the host issues. -/
structure CoreInv (s : State) : Prop where
  parts : CoreParts s
  /-- R47: no command is half done -/
  noCommand : s.cur = none
  /-- R49 clause 1 -/
  startedOwned : ∀ d n, (s.chan d n).run ≠ .idle → (s.chan d n).slot.isOwned = true
  /-- R44: `buf[TX][n]` is 0 while the slot is `Free` -/
  freeNoBuffer : ∀ n, (s.chan .tx n).slot = .free → s.txBuf[n.val] = 0

/-- What commands keep of a lane (R49 clauses 2, 5, 6; R350; R66). Clause 5 is kept for a `Paused`
transmit lane too, which R49 does not ask. -/
structure LaneDisciplined (s : State) (d : Dir) (n : Lane) : Prop where
  /-- R49 clause 2 -/
  armedIffEnabled : (s.chan d n).run = .armed ↔ laneEnabled s d n = true
  /-- R350: reset bits are pulses -/
  notInReset : laneInReset s d n = false
  /-- R49 clause 5 -/
  published : (s.chan d n).run ≠ .idle →
    (s.bank d).sw[n.val] = toWord (softwareIndex d (s.chan d n))
  /-- R49 clause 6 -/
  baseIsBuffer : (s.bank d).base[n.val] = s.buf d n
  /-- R192, R195: the ring is aligned -/
  bufferAligned : aligned s.cfg (s.buf d n) = true
  /-- R192, R195: an owned lane's ring is below the top -/
  bufferBelowTop : (s.chan d n).slot.isOwned = true → belowTop s.cfg d (s.buf d n) = true

/-- The receive rings pass ATTACH's checks (R192). -/
def receiveRingsOk (c : Params) : Bool :=
  (c.lanes.all fun n => aligned c c.rxBufPhys[n.val] && belowTop c .rx c.rxBufPhys[n.val])
    && pairwiseDisjoint (windowRegion c :: rxRegions c)

/-- Rings of different owned transmit lanes do not overlap each other, a receive ring or the register
window (R63). -/
def TxRingsDisjoint (s : State) : Prop :=
  ∀ n, s.cfg.hasLane n = true → (s.chan .tx n).slot.isOwned = true →
    (windowRegion s.cfg :: rxRegions s.cfg).all (disjoint (ringRegion s.cfg .tx s.txBuf[n.val])) = true ∧
    ∀ m, s.cfg.hasLane m = true → m ≠ n → (s.chan .tx m).slot.isOwned = true →
      disjoint (ringRegion s.cfg .tx s.txBuf[n.val]) (ringRegion s.cfg .tx s.txBuf[m.val]) = true

/-- The invariants of R49, with what keeps them so: they hold from the first ATTACH on in executions
whose register accesses all come from commands (R120). -/
structure CommandInv (s : State) : Prop where
  core : CoreInv s
  lane : ∀ d n, s.cfg.hasLane n = true → LaneDisciplined s d n
  ringsOk : receiveRingsOk s.cfg = true
  txRings : TxRingsDisjoint s
  /-- R28, D37: no command but ATTACH and DETACH writes the interrupt enables -/
  interruptsOn : s.attached = true → s.tx.ier = laneMask s.cfg ∧ s.rx.ier = laneMask s.cfg
  /-- R24, R25 -/
  configured : s.bufSz = s.cfg.sizeClass ∧ s.rxTimeout = s.cfg.timeoutValue

/-! ### Marks (R48) -/

/-- The state an observer records after one step: the next state, or the same state with the fault or
refusal mark of R48 set (log 10). -/
def settle (s : State) : State :=
  match step s with
  | .next t => t
  | .fault r => { s with faulted := some r }
  | .refused _ => { s with refused := true }

/-! ### Bytes still in a receive ring, and what the history says of a lane -/

/-- The bytes of a receive ring from index `tail` up to the hardware pointer, in ring order: received and
not yet accepted. -/
def unreadBytes (s : State) (n : Lane) : List Byte :=
  (List.range (ringSub (ringMask s.cfg .rx) s.rx.hw[n.val].toNat (s.chan .rx n).tail)).map fun i =>
    memRead s.mem (ringAddress s .rx n (ringAdd (ringMask s.cfg .rx) (s.chan .rx n).tail i))

/-- The bytes a receive lane took from the line, in a piece of history. -/
def receivedBytes (n : Lane) : List Event → List Byte
  | [] => []
  | .lineRx m b :: es => if m = n then b :: receivedBytes n es else receivedBytes n es
  | _ :: es => receivedBytes n es

/-- The bytes of a receive lane the consumer stream accepted, in a piece of history. -/
def deliveredBytes (n : Lane) : List Event → List Byte
  | [] => []
  | .deliver _ m bs :: es => if m = n then bs ++ deliveredBytes n es else deliveredBytes n es
  | _ :: es => deliveredBytes n es

/-! ### Executions and fairness -/

/-- Who takes an atomic step (R20, R72): a lane agent, or the control unit, to whom the host may offer a
packet and the outside world its free inputs. -/
inductive Turn where
  | lane (l : LaneStep)
  | control (packet : Option Packet) (free : Draws)

/-- An infinite execution of atomic steps: the states, whose turn each step is, and the bytes the serial line
offers at each. -/
structure Execution where
  st : Nat → State
  turn : Nat → Turn
  line : Nat → Lane → Option Byte

/-- The state step `k` starts from: `st k` with what the outside world supplies for that turn. -/
def Execution.before (e : Execution) (k : Nat) : State :=
  match e.turn k with
  | .lane l => { e.st k with sched := [[l]] }
  | .control packet free => { e.st k with sched := [], inbox := packet.toList, draws := free }

/-- Every step is one atomic step and answers the next state. -/
def Execution.valid (e : Execution) : Prop :=
  ∀ k, (e.st k).pace = .atomic ∧ step (e.before k) = .next (e.st (k + 1))

/-- Step `k` is the lane-agent step `l`. -/
def Execution.occurs (e : Execution) (k : Nat) (l : LaneStep) : Prop := e.turn k = .lane l

/-- Step `k` takes a packet whose instruction is `i`: a direct register access, or a command's first
micro-step. -/
def Execution.issues (e : Execution) (k : Nat) (i : Instr) : Prop :=
  (e.st k).cur = none ∧
    ∃ p free, e.turn k = .control (some p) free ∧ decode (e.st k).cfg.numLanes p = .ok i

/-- Weak fairness: from any point on, if the premise holds for ever the action happens. -/
def eventually (premise action : Nat → Prop) : Prop :=
  ∀ k, (∀ j, k ≤ j → premise j) → ∃ j, k ≤ j ∧ action j

/-- R167: an active receive lane with unread bytes and a clear status bit completes. -/
def Execution.receiveCompletes (e : Execution) : Prop :=
  ∀ n, eventually
    (fun j => laneActive (e.st j) .rx n = true ∧ (e.st j).rx.hw[n.val] ≠ (e.st j).rx.sw[n.val] ∧
      sourcePending (e.st j) .rx n = false)
    (fun j => e.occurs j (.status .rx n))

/-- R168 (a): an active transmit lane with bytes to send sends. -/
def Execution.transmitMoves (e : Execution) : Prop :=
  ∀ n, eventually
    (fun j => laneActive (e.st j) .tx n = true ∧ (e.st j).tx.hw[n.val] ≠ (e.st j).tx.sw[n.val])
    (fun j => e.occurs j (.txByte n))

/-- R168 (b): a drained transmit lane reports completion. -/
def Execution.transmitCompletes (e : Execution) : Prop :=
  ∀ n, eventually
    (fun j => laneActive (e.st j) .tx n = true ∧ (e.st j).tx.hw[n.val] = (e.st j).tx.sw[n.val] ∧
      (e.st j).txMoved[n.val] = true)
    (fun j => e.occurs j (.status .tx n))

/-- R168 (c): an enabled receive byte step happens. -/
def Execution.receiveMoves (e : Execution) : Prop :=
  ∀ n, eventually
    (fun j => rxByteEnabled (e.st j) n = true ∧ (e.line j n).isSome = true)
    (fun j => ∃ b, e.line j n = some b ∧ e.occurs j (.rxByte n b))

/-- R173: a receive byte step takes the byte that the line offers. -/
def Execution.takesOffered (e : Execution) : Prop :=
  ∀ k n b, e.occurs k (.rxByte n b) → e.line k n = some b

/-- R171: the host's obligation. -/
def Execution.hostDispatches (e : Execution) : Prop :=
  eventually (fun j => (e.st j).attached = true ∧ interruptLine (e.st j) = true)
    (fun j => e.issues j .dispatch)

/-- R262: the worker's obligation. -/
def Execution.workerRuns (e : Execution) : Prop :=
  ∀ d (n : Lane), eventually
    (fun j => (e.st j).cfg.hasLane n = true ∧ ((e.st j).chan d n).work = true)
    (fun j => e.issues j (.work d n))

/-- The executions of the block (R167: "An execution that violates it is not an execution of the
block"). The premises are tested at every atomic step, also between two micro-steps of a command
(log 22). -/
structure Execution.Fair (e : Execution) : Prop where
  runs : e.valid
  takesOffered : e.takesOffered
  receiveCompletes : e.receiveCompletes
  transmitMoves : e.transmitMoves
  transmitCompletes : e.transmitCompletes
  receiveMoves : e.receiveMoves
  hostDispatches : e.hostDispatches
  workerRuns : e.workerRuns

end Sys2Proof.Machine
end

