-- ==== Sys2Proof/Certificates/Slice0/Obligations.lean ====
section
/-! DEFINITION. The statements for the provers. Throughout, `f` is the `LANE` field of a command and
`laneOf s.cfg f = some n` says that it names lane `n`, which exists; `s.sched = []` says that no lane-agent
step is scheduled; `boundary s` is `s` after the lane-agent steps of one slot, with the running command's
index advanced; in `Ended i r own s u t`, `own` are the command's own events, in order, under every
schedule. -/

open Sys2Proof Sys2Proof.Machine

/-! ### Encoding -/

/-- R91 to R100: whatever the lane count, the decoder reads back every instruction from its packet, with
every operand at every value the encoding admits, and reads no register of a lane that does not exist. -/
def Obligations.DecodeEncodeRoundTrip : Prop := ∀ (c : Params) (i : Instr),
  (i.registerExists c = true → decode c.numLanes (encode i) = .ok i) ∧
  ∀ p : Packet, decode c.numLanes p = .ok i → i.registerExists c = true

/-- R94, R96: two packets with the same instruction have the same word; the word is the one the encoder
writes. -/
def Obligations.EachWordHasOneMeaning : Prop :=
  ∀ (N : Fin 33) (p : Packet) (i : Instr), decode N p = .ok i → packetWord p = packetWord (encode i)

/-- R99, R101: exactly these command words are illegal, and a step that takes one refuses. -/
def Obligations.IllegalCommandWordsRefused : Prop :=
  ∀ (N : Fin 33) (w : Word) (r : OperandRecord),
    (decode N (.cmd w r) = .error .illegalCommand ↔
      w.extractLsb' 10 22 ≠ 0 ∨ w.extractLsb' 0 4 = 0x0 ∨ w.extractLsb' 0 4 = 0xF ∨
      ((w.extractLsb' 0 4 = 0x1 ∨ w.extractLsb' 0 4 = 0x2 ∨ w.extractLsb' 0 4 = 0xA) ∧
        w.extractLsb' 4 6 ≠ 0) ∨
      (w.extractLsb' 0 4 = 0xB ∧ w.extractLsb' 4 1 = 0) ∨
      ((w.extractLsb' 0 4 = 0xC ∨ w.extractLsb' 0 4 = 0xD) ∧ w.extractLsb' 4 1 = 1)) ∧
    ∀ (s : State) (rest : List Packet), s.faulted = none → s.refused = false → s.cur = none →
      controlMoves s = true → s.inbox = .cmd w r :: rest → s.cfg.numLanes = N →
      decode N (.cmd w r) = .error .illegalCommand → step s = .refused .illegalCommandWord

/-- R67, R92 to R95: a step that takes a register access faults `RegisterWidth` unless the access is of 32
bits, then `MisalignedRegister` unless the offset is a multiple of 4, then `UnmappedRegister` unless the
offset is that of a register; and each of the registers decodes. That the width is looked at before the
offset is the model's choice (log 13). -/
def Obligations.IllegalAccessWordsFault : Prop :=
  ∀ (s : State) (width : AccessWidth) (w : BitVec 13) (v : Word) (rest : List Packet),
    s.faulted = none → s.refused = false → s.cur = none → controlMoves s = true →
    s.inbox = .mmio width w v :: rest →
    let off := (w.extractLsb' 0 12).toNat
    let mapped := off ∈ [0x00, 0x04, 0x08, 0x0C, 0x20, 0x24, 0x30, 0x34, 0x38, 0x3C] ∨
      ∃ n : Lane, s.cfg.hasLane n = true ∧ ∃ r ∈ [0x40, 0x44, 0x48, 0x50, 0x54, 0x58], off = r + 0x20 * n.val
    (width ≠ .w32 → step s = .fault .registerWidth) ∧
    (width = .w32 → off % 4 ≠ 0 → step s = .fault .misalignedRegister) ∧
    (width = .w32 → off % 4 = 0 → ¬ mapped → step s = .fault .unmappedRegister) ∧
    (width = .w32 → mapped → ∃ i, decode s.cfg.numLanes (.mmio width w v) = .ok i)

/-- Words written out from R91 to R97 and the examples of R102, R103 decode to what they stand for in a block
of 12 lanes. -/
def Obligations.DecodedWords : Prop :=
  decode 12 (.mmio .w32 0x103C 0x8) = .ok (.st32RxIsr 0x8) ∧
  decode 12 (.mmio .w32 0x0040 0) = .ok (.ld32TxRd 0) ∧
  decode 12 (.mmio .w32 0x11B8 0x40000B00) = .ok (.st32RxBase 11 0x40000B00) ∧
  decode 12 (.cmd 0x00000001 zeroOperands) = .ok .attach ∧
  decode 12 (.cmd 0x00000074 zeroOperands) = .ok (.trigger .rx 3) ∧
  decode 12 (.cmd 0x00000038 { zeroOperands with val := 6 }) = .ok (.updsw .rx 1 6) ∧
  decode 12 (.cmd 0x0000000A zeroOperands) = .ok .dispatch

/-! ### The step -/

/-- R47, R120: with no command half done and no mark set, a step of the control unit takes the first packet
off the interface: at command pace it is `exec` of the instruction the packet decodes to, and so it is at
atomic pace for a direct register access, while for a command it is the first micro-step (the two paces are
the model's, log 29). -/
def Obligations.StepRunsDecodedInstruction : Prop :=
  ∀ (s : State) (p : Packet) (rest : List Packet) (i : Instr),
    s.faulted = none → s.refused = false → s.cur = none → s.inbox = p :: rest →
    decode s.cfg.numLanes p = .ok i →
    (s.pace = .command ∨ (controlMoves s = true ∧ isCommand i = false) →
      step s = exec i { s with inbox := rest }) ∧
    (s.pace = .atomic → controlMoves s = true → isCommand i = true →
      ∃ x, commandOf i = some x ∧ step s = x.micro (beginCommand i { s with inbox := rest }))

/-- R47, R72, R74: at atomic pace a step is one step of one agent. While the head slot of the schedule holds
lane-agent steps it is the first of them. Otherwise it is the control unit's, and a running command advances
by one micro-step: its index is one higher, or it has ended with its `Result` event and `cur` is `none`. -/
def Obligations.AtomicStepIsOneMicroStep : Prop :=
  ∀ s t : State, s.faulted = none → s.refused = false → s.pace = .atomic → step s = .next t →
    (∀ l ls rest, s.sched = (l :: ls) :: rest → t = laneStep { s with sched := ls :: rest } l) ∧
    (controlMoves s = true →
      (∀ i k, s.cur = some (i, k) → pendingProgram s i ≠ .done () →
        t.cur = some (i, k + 1) ∨
          (t.cur = none ∧ ∃ code v, t.hist.getLast? = some (.result i code v))) ∧
      (∀ p rest i, s.cur = none → s.inbox = p :: rest → decode s.cfg.numLanes p = .ok i →
        isCommand i = true → t.inbox = rest ∧
          (t.cur = some (i, 1) ∨ (t.cur = none ∧ ∃ code v, t.hist.getLast? = some (.result i code v)))))

/-- R47, R74, R190: at atomic pace an instruction runs to the outcome that `exec` gives, whatever lane-agent
steps the schedule puts between its micro-steps: after some atomic steps the next one answers it. -/
def Obligations.MicroStepsReachExec : Prop :=
  ∀ (s : State) (p : Packet) (rest : List Packet) (i : Instr),
    s.faulted = none → s.refused = false → s.pace = .atomic → s.cur = none → s.inbox = p :: rest →
    decode s.cfg.numLanes p = .ok i →
    ∃ (k : Nat) (u : State), Host.Core.run Sys2Proof.core k s = .next u ∧
      step u = exec i { s with inbox := rest }

/-- R306, R307: a faulted state takes no further step, nor does a refused one; the marks stay. -/
def Obligations.MarkedStatesTakeNoStep : Prop :=
  ∀ s : State,
    (∀ r, s.faulted = some r → step s = .fault r ∧ (settle s).faulted = some r) ∧
    (s.faulted = none → s.refused = true → (∃ r, step s = .refused r) ∧ (settle s).refused = true)

/-- R20, R72, R160: a step with no command running and no packet waiting is lane-agent steps only: it writes
no enable, reset, interrupt-enable, base or software-pointer register and no control-unit state but the
history, takes no draw, and uses up one slot of the schedule. -/
def Obligations.IdleStepMovesLaneAgentsOnly : Prop :=
  ∀ s : State, s.faulted = none → s.refused = false → s.inbox = [] → s.cur = none →
    controlMoves s = true →
    ∃ t, step s = .next t ∧ t = interleave s ∧ controlPart t = controlPart s ∧ t.draws = s.draws ∧
      t.cur = none ∧ t.seen = s.seen ∧ t.sched = s.sched.tail ∧
      ∃ es, t.hist = s.hist ++ es ∧ es.filter Event.isOwn = []

/-! ### Lane agents -/

/-- R160, R170: no lane-agent step writes a register but a hardware pointer or a status bit, nor any
control-unit state but the history, to which it adds line bytes; a status bit is only ever set; the transmit
agents write no memory. -/
def Obligations.LaneAgentsWriteOnlyTheirState : Prop :=
  ∀ (s : State) (l : LaneStep),
    controlPart (laneStep s l) = controlPart s ∧ (laneStep s l).sched = s.sched ∧
    (laneStep s l).draws = s.draws ∧ (laneStep s l).cur = s.cur ∧ (laneStep s l).seen = s.seen ∧
    (∀ d n, sourcePending s d n = true → sourcePending (laneStep s l) d n = true) ∧
    (∃ es, (laneStep s l).hist = s.hist ++ es ∧ es.filter Event.isOwn = []) ∧
    ((∀ n b, l ≠ .rxByte n b) → (laneStep s l).mem = s.mem)

/-- R162, R163: the receive byte step stores the byte at `RX_BASE[n] + RX_WR[n]` and nowhere else, advances
`RX_WR[n]` by one modulo `CAP_RX`, emits `LineRx`, and changes nothing else; it is not taken when the lane
is inactive, the pointer is not below `CAP_RX`, or the ring is one slot short of full, nor (R62: the lane is
stuck) when the address passes 0xFFFFFFFF. -/
def Obligations.ReceiveByteStep : Prop :=
  ∀ (s : State) (n : Lane) (b : Byte), Memory.wf s.mem →
    (laneActive s .rx n = true → s.rx.hw[n.val].toNat < cap s.cfg .rx →
      (s.rx.hw[n.val].toNat + 1) % cap s.cfg .rx ≠ s.rx.sw[n.val].toNat →
      s.rx.base[n.val].toNat + s.rx.hw[n.val].toNat < 2 ^ 32 →
      ∃ (m : Memory) (v : Word), v.toNat = (s.rx.hw[n.val].toNat + 1) % cap s.cfg .rx ∧
        (∀ a, memRead m a =
          if a = s.rx.base[n.val].toNat + s.rx.hw[n.val].toNat then b else memRead s.mem a) ∧
        laneStep s (.rxByte n b) =
          { s with mem := m, rx := s.rx.setHw n v, hist := s.hist ++ [.lineRx n b] }) ∧
    (laneActive s .rx n = false ∨ cap s.cfg .rx ≤ s.rx.hw[n.val].toNat ∨
        (s.rx.hw[n.val].toNat + 1) % cap s.cfg .rx = s.rx.sw[n.val].toNat ∨
        2 ^ 32 ≤ s.rx.base[n.val].toNat + s.rx.hw[n.val].toNat →
      laneStep s (.rxByte n b) = s)

/-- R164, R165: the transmit byte step sends the byte at `TX_BASE[n] + TX_RD[n]`, advances `TX_RD[n]` by one
modulo `CAP_TX`, sets `tx_moved[n]`, and changes nothing else; it is not taken when the lane is inactive, a
pointer is not below `CAP_TX`, or the pointers are equal, nor (R62: the lane is stuck) when the address
passes 0xFFFFFFFF. -/
def Obligations.TransmitByteStep : Prop :=
  ∀ (s : State) (n : Lane),
    (laneActive s .tx n = true → s.tx.hw[n.val].toNat < cap s.cfg .tx →
      s.tx.sw[n.val].toNat < cap s.cfg .tx → s.tx.hw[n.val] ≠ s.tx.sw[n.val] →
      s.tx.base[n.val].toNat + s.tx.hw[n.val].toNat < 2 ^ 32 →
      ∃ v : Word, v.toNat = (s.tx.hw[n.val].toNat + 1) % cap s.cfg .tx ∧
        laneStep s (.txByte n) =
          { s with
            tx := s.tx.setHw n v
            txMoved := s.txMoved.set n.val true
            hist := s.hist ++
              [.lineTx n (memRead s.mem (s.tx.base[n.val].toNat + s.tx.hw[n.val].toNat))] }) ∧
    (laneActive s .tx n = false ∨ cap s.cfg .tx ≤ s.tx.hw[n.val].toNat ∨
        cap s.cfg .tx ≤ s.tx.sw[n.val].toNat ∨ s.tx.hw[n.val] = s.tx.sw[n.val] ∨
        2 ^ 32 ≤ s.tx.base[n.val].toNat + s.tx.hw[n.val].toNat →
      laneStep s (.txByte n) = s)

/-- R166: the status-set step of an active lane sets the lane's status bit and no other, clears
`tx_moved[n]` on a transmit lane, and changes nothing else; an inactive lane takes none. -/
def Obligations.StatusSetStep : Prop :=
  ∀ (s : State) (d : Dir) (n : Lane),
    (laneActive s d n = true → ∃ v : Word,
      (∀ k < 32, v.getLsbD k = (decide (k = n.val) || (s.bank d).isr.getLsbD k)) ∧
      laneStep s (.status d n) = (s.withIsr d v).withStill d n) ∧
    (laneActive s d n = false → laneStep s (.status d n) = s)

/-- R161: whatever the agents do, a lane that is not active keeps its hardware pointer, its status bit and
`tx_moved`, and moves no byte, on hardware that does not corrupt pointers. -/
def Obligations.InactiveLanesTakeNoStep : Prop :=
  ∀ (s : State) (l : List LaneStep) (d : Dir) (n : Lane), s.cfg.hwMayCorrupt = false →
    laneActive s d n = false →
    ((laneSteps s l).bank d).hw[n.val] = (s.bank d).hw[n.val] ∧
    sourcePending (laneSteps s l) d n = sourcePending s d n ∧
    (d = .tx → (laneSteps s l).txMoved[n.val] = s.txMoved[n.val]) ∧
    ∃ es, (laneSteps s l).hist = s.hist ++ es ∧
      ∀ b, (d = .tx → Event.lineTx n b ∉ es) ∧ (d = .rx → Event.lineRx n b ∉ es)

/-- R172: the hardware-fault step gives the lane's hardware pointer the drawn value and changes nothing else,
only with `HW_MAY_CORRUPT`; while the lane's reset bit is 1 the pointer stays held at 0 (the model's reading
of R32 and R36, log 16). A lane whose hardware pointer is out of range takes no byte step. -/
def Obligations.HardwareFaultStep : Prop :=
  ∀ (s : State) (d : Dir) (n : Lane) (v : Word),
    (s.cfg.hwMayCorrupt = true → s.cfg.hasLane n = true → laneInReset s d n = false →
      laneStep s (.corrupt d n v) = s.withHw d n v) ∧
    (s.cfg.hwMayCorrupt = false ∨ s.cfg.hasLane n = false ∨ laneInReset s d n = true →
      laneStep s (.corrupt d n v) = s) ∧
    (cap s.cfg d ≤ (s.bank d).hw[n.val].toNat →
      (d = .tx → laneStep s (.txByte n) = s) ∧ ∀ b, d = .rx → laneStep s (.rxByte n b) = s)

/-- R170: no command but ATTACH and DISPATCH, and no register access but a write-one-to-clear, clears a
status bit. -/
def Obligations.StatusBitsSurvive : Prop :=
  ∀ (i : Instr) (s t : State), i ≠ .attach → i ≠ .dispatch → (∀ v, i ≠ .st32TxIsr v) →
    (∀ v, i ≠ .st32RxIsr v) → exec i s = .next t →
    ∀ d n, sourcePending s d n = true → sourcePending t d n = true

/-! ### Register accesses -/

/-- R121 to R151, odd rules: a read of a bitmask register returns its lane bits and a fresh draw in bits
31:N; any other returns the register, which for a hardware pointer is what the lane agent has made of it.
No read writes a register. -/
def Obligations.RegisterReads : Prop :=
  (∀ s : State,
    let read (v : Word) : Host.Outcome State Fault Refusal := .next { dropReserved (boundary s) with
      readData := some ((v &&& laneMask s.cfg) ||| (nextReserved s &&& ~~~laneMask s.cfg)) }
    exec .ld32TxEn s = read s.tx.en ∧ exec .ld32RxEn s = read s.rx.en ∧
    exec .ld32TxRst s = read s.tx.rst ∧ exec .ld32RxRst s = read s.rx.rst ∧
    exec .ld32TxIer s = read s.tx.ier ∧ exec .ld32RxIer s = read s.rx.ier ∧
    exec .ld32TxIsr s = read (boundary s).tx.isr ∧ exec .ld32RxIsr s = read (boundary s).rx.isr) ∧
  (∀ (s : State) (n : Lane),
    let read (v : Word) : Host.Outcome State Fault Refusal :=
      .next { boundary s with readData := some v }
    exec .ld32BufSz s = read s.bufSz ∧ exec .ld32RxTimeout s = read s.rxTimeout ∧
    exec (.ld32TxRd n) s = read (boundary s).tx.hw[n.val] ∧
    exec (.ld32TxWr n) s = read s.tx.sw[n.val] ∧ exec (.ld32TxBase n) s = read s.tx.base[n.val] ∧
    exec (.ld32RxRd n) s = read s.rx.sw[n.val] ∧
    exec (.ld32RxWr n) s = read (boundary s).rx.hw[n.val] ∧
    exec (.ld32RxBase n) s = read s.rx.base[n.val])

/-- R122, R124, R134, R138: a write of an enable or interrupt-enable register stores the value, and faults
`ReservedBitWrite` exactly when one of bits 31:N is 1. -/
def Obligations.EnableRegisterWrites : Prop :=
  ∀ (s : State) (v : Word),
    (v &&& ~~~laneMask s.cfg = 0 →
      exec (.st32TxEn v) s = .next { boundary s with tx := { (boundary s).tx with en := v } } ∧
      exec (.st32RxEn v) s = .next { boundary s with rx := { (boundary s).rx with en := v } } ∧
      exec (.st32TxIer v) s = .next { boundary s with tx := { (boundary s).tx with ier := v } } ∧
      exec (.st32RxIer v) s = .next { boundary s with rx := { (boundary s).rx with ier := v } }) ∧
    (v &&& ~~~laneMask s.cfg ≠ 0 →
      ∀ i ∈ [Instr.st32TxEn v, .st32RxEn v, .st32TxIer v, .st32RxIer v],
        exec i s = .fault .reservedBitWrite)

/-- R130, R132: a write of a reset register stores the value and zeroes both pointers (and `tx_moved`) of
every lane whose bit is 1, leaving the other lanes' and every other register alone; it faults
`ReservedBitWrite` exactly when one of bits 31:N is 1. -/
def Obligations.ResetRegisterWrites : Prop :=
  ∀ (s : State) (v : Word),
    (v &&& ~~~laneMask s.cfg = 0 →
      ∃ (p q p' q' : Vector Word 32) (moved : Vector Bool 32),
        exec (.st32TxRst v) s = .next { boundary s with
          tx := { (boundary s).tx with rst := v, hw := p, sw := q }, txMoved := moved } ∧
        exec (.st32RxRst v) s = .next { boundary s with
          rx := { (boundary s).rx with rst := v, hw := p', sw := q' } } ∧
        ∀ n : Lane,
          p[n.val] = (if v.getLsbD n.val then 0 else (boundary s).tx.hw[n.val]) ∧
          q[n.val] = (if v.getLsbD n.val then 0 else s.tx.sw[n.val]) ∧
          moved[n.val] = (!v.getLsbD n.val && (boundary s).txMoved[n.val]) ∧
          p'[n.val] = (if v.getLsbD n.val then 0 else (boundary s).rx.hw[n.val]) ∧
          q'[n.val] = (if v.getLsbD n.val then 0 else s.rx.sw[n.val])) ∧
    (v &&& ~~~laneMask s.cfg ≠ 0 →
      exec (.st32TxRst v) s = .fault .reservedBitWrite ∧
      exec (.st32RxRst v) s = .fault .reservedBitWrite)

/-- R136, R140: a write of a status register clears the bits written 1 over all 32 bits and no other. -/
def Obligations.StatusAcknowledge : Prop :=
  ∀ (s : State) (v : Word), ∃ a b : Word,
    exec (.st32TxIsr v) s = .next { boundary s with tx := { (boundary s).tx with isr := a } } ∧
    exec (.st32RxIsr v) s = .next { boundary s with rx := { (boundary s).rx with isr := b } } ∧
    ∀ k < 32, a.getLsbD k = ((boundary s).tx.isr.getLsbD k && !v.getLsbD k) ∧
      b.getLsbD k = ((boundary s).rx.isr.getLsbD k && !v.getLsbD k)

/-- R126, R128: `BUF_SZ` takes only `SIZE_CLASS`, and only while every lane is disabled; `RX_TIMEOUT` takes
any value. -/
def Obligations.ConfigurationWrites : Prop :=
  ∀ (s : State) (v : Word),
    exec (.st32RxTimeout v) s = .next { boundary s with rxTimeout := v } ∧
    (((s.tx.en ||| s.rx.en) &&& laneMask s.cfg = 0) → v = s.cfg.sizeClass →
      exec (.st32BufSz v) s = .next { boundary s with bufSz := v }) ∧
    (((s.tx.en ||| s.rx.en) &&& laneMask s.cfg = 0) → v ≠ s.cfg.sizeClass →
      exec (.st32BufSz v) s = .refused .unknownSizeClass) ∧
    (((s.tx.en ||| s.rx.en) &&& laneMask s.cfg ≠ 0) →
      exec (.st32BufSz v) s = .fault .configWhileEnabled)

/-- R142 to R152, even rules: a hardware pointer takes a value below the capacity, only while the lane's
enable bit is 0; a software pointer takes one enabled or not; either write is ignored while the lane's reset
bit is 1; a base takes a multiple of `BUF_ALIGN`, only while the lane's enable bit is 0. -/
def Obligations.LaneRegisterWrites : Prop :=
  ∀ (s : State) (d : Dir) (n : Lane) (v : Word),
    let hw : Instr := match d with
      | .tx => .st32TxRd n v
      | .rx => .st32RxWr n v
    let sw : Instr := match d with
      | .tx => .st32TxWr n v
      | .rx => .st32RxRd n v
    let base : Instr := match d with
      | .tx => .st32TxBase n v
      | .rx => .st32RxBase n v
    (cap s.cfg d ≤ v.toNat → exec hw s = .fault .pointerRange ∧ exec sw s = .fault .pointerRange) ∧
    (v.toNat < cap s.cfg d → (s.bank d).en.getLsbD n.val = true →
      exec hw s = .fault .hwPointerWriteWhileEnabled) ∧
    (v.toNat < cap s.cfg d → (s.bank d).en.getLsbD n.val = false →
      (s.bank d).rst.getLsbD n.val = true → exec hw s = .next (boundary s)) ∧
    (v.toNat < cap s.cfg d → (s.bank d).en.getLsbD n.val = false →
      (s.bank d).rst.getLsbD n.val = false → exec hw s = .next ((boundary s).withHw d n v)) ∧
    (v.toNat < cap s.cfg d → (s.bank d).rst.getLsbD n.val = true → exec sw s = .next (boundary s)) ∧
    (v.toNat < cap s.cfg d → (s.bank d).rst.getLsbD n.val = false →
      exec sw s = .next ((boundary s).withSw d n v)) ∧
    ((s.bank d).en.getLsbD n.val = true → exec base s = .fault .baseWriteWhileEnabled) ∧
    ((s.bank d).en.getLsbD n.val = false → v.toNat % bufAlign s.cfg ≠ 0 →
      exec base s = .fault .baseAlign) ∧
    ((s.bank d).en.getLsbD n.val = false → v.toNat % bufAlign s.cfg = 0 →
      exec base s = .next ((boundary s).withBase d n v))

/-! ### Common checks of the commands -/

/-- R190 (2) and (3), R40, R98, R301: while not attached every command but ATTACH faults `NotAttached`; once
attached, a command whose lane operand names no lane returns `InvalidChannel`, recording the operand, and has
no other effect. -/
def Obligations.CommonChecks : Prop :=
  (∀ (i : Instr) (s : State), isCommand i = true → i ≠ .attach → s.attached = false →
    exec i s = .fault .notAttached) ∧
  (∀ (s : State) (f : LaneField) (d : Dir) (owner : Owner) (cb : Callback) (v : Word) (count : Nat)
      (data : List Byte), s.attached = true → s.cfg.numLanes.val ≤ f.val →
    ∀ i ∈ [Instr.claimTx f owner cb v, .claimRx f owner cb, .trigger d f, .stop d f, .pause d f,
        .release d f, .updsw d f v, .rdhw d f, .rxdrain f, .txprod f count data, .txcomp f, .work d f],
      exec i s = .next (answeredOnly s i .invalidChannel (some f.val)))

/-- R301, R304: the error codes of the slot, state and operand tests, each with no other effect. -/
def Obligations.ErrorCodesOfCommands : Prop :=
  ∀ (s : State) (f : LaneField) (n : Lane) (d : Dir) (owner : Owner) (cb : Callback) (v : Word)
      (count : Nat) (data : List Byte), s.attached = true → laneOf s.cfg f = some n →
    let fails (i : Instr) (c : Code) : Prop := exec i s = .next (answeredOnly s i c none)
    ((s.chan .rx n).slot.isOwned = true → fails (.claimRx f owner cb) .busy) ∧
    ((s.chan .tx n).slot.isOwned = true → fails (.claimTx f owner cb v) .busy) ∧
    ((s.chan d n).slot = .free → fails (.trigger d f) .notOwned ∧ fails (.release d f) .notOwned ∧
      fails (.updsw d f v) .notOwned) ∧
    ((s.chan .tx n).slot = .free → fails (.txprod f count data) .notOwned) ∧
    ((s.chan d n).slot.isOwned = true → (s.chan d n).run = .armed →
      fails (.trigger d f) .alreadyOwned) ∧
    ((s.chan d n).run ≠ .armed → fails (.pause d f) .invalidState) ∧
    ((s.chan d n).slot.isOwned = true → cap s.cfg d ≤ v.toNat → fails (.updsw d f v) .invalidPointer)

/-- R190, R303: a command that returns any code but `Ok` and `CorruptPointer` has made no register access
and changed nothing but its `Result` event. -/
def Obligations.ErrorsTouchNothing : Prop :=
  ∀ (i j : Instr) (s t : State) (c : Code) (v : Option Nat), isCommand i = true → exec i s = .next t →
    t.hist.getLast? = some (.result j c v) → c ≠ .ok → c ≠ .corruptPointer →
    j = i ∧ t = answeredOnly s i c v

/-! ### Channel control -/

/-- R192, R50: ATTACH completes wherever the receive rings pass its checks, and establishes the reset
state of every lane that exists: every enable and reset register 0, the configuration, every base, the
interrupt enables all on, no status bit of a lane set, every pointer 0 (on hardware that does not corrupt
pointers), `tx_moved` false, every channel-table entry at its initial value. -/
def Obligations.AttachEstablishesResetState : Prop :=
  ∀ s : State, s.attached = false → receiveRingsOk s.cfg = true →
    let zero (v : Vector Word 32) : Vector Word 32 := forLanes s.cfg (fun _ => 0) v
    ∃ t, exec .attach s = .next t ∧
      controlPart t = controlPart { s with
        tx := { s.tx with
          en := 0, rst := 0, ier := laneMask s.cfg, sw := zero s.tx.sw, base := zero s.tx.base }
        rx := { s.rx with
          en := 0
          rst := 0
          ier := laneMask s.cfg
          sw := zero s.rx.sw
          base := forLanes s.cfg (fun n => s.cfg.rxBufPhys[n.val]) s.rx.base }
        bufSz := s.cfg.sizeClass
        rxTimeout := s.cfg.timeoutValue
        attached := true
        txChan := forLanes s.cfg (fun _ => Chan.reset) s.txChan
        rxChan := forLanes s.cfg (fun _ => Chan.reset) s.rxChan
        txBuf := zero s.txBuf } ∧
      (∀ d n, sourcePending t d n = false) ∧
      (∀ n, s.cfg.hasLane n = true → t.txMoved[n.val] = false ∧
        (s.cfg.hwMayCorrupt = false → ∀ d : Dir, (t.bank d).hw[n.val] = 0)) ∧
      t.cur = none ∧ t.seen = [] ∧
      ∃ es, t.hist = s.hist ++ es ++ [.result .attach .ok none] ∧ es.filter Event.isOwn = []

/-- R192, R304: ATTACH while attached faults `AlreadyAttached`; otherwise it faults at the first receive ring
that fails a check, `BaseAlign` before `Overlap`, and then `Overlap` if two of the rings and the register
window meet. -/
def Obligations.AttachFaults : Prop :=
  ∀ s : State,
    let ok (n : Lane) : Prop :=
      aligned s.cfg s.cfg.rxBufPhys[n.val] = true ∧ belowTop s.cfg .rx s.cfg.rxBufPhys[n.val] = true
    (s.attached = true → exec .attach s = .fault .alreadyAttached) ∧
    (s.attached = false → ∀ n : Lane, s.cfg.hasLane n = true → (∀ m : Lane, m < n → ok m) →
      (aligned s.cfg s.cfg.rxBufPhys[n.val] = false → exec .attach s = .fault .baseAlign) ∧
      (aligned s.cfg s.cfg.rxBufPhys[n.val] = true →
        belowTop s.cfg .rx s.cfg.rxBufPhys[n.val] = false → exec .attach s = .fault .overlap)) ∧
    (s.attached = false → (∀ n, s.cfg.hasLane n = true → ok n) →
      pairwiseDisjoint (windowRegion s.cfg :: rxRegions s.cfg) = false → exec .attach s = .fault .overlap)

/-- R193: DETACH forces every lane to Stop, frees it and turns the interrupt enables off; every pointer of a
lane ends 0 (the hardware's on hardware that does not corrupt pointers) and `tx_moved` false; a latched
status bit stays set. -/
def Obligations.DetachFreesEveryLane : Prop :=
  ∀ s : State, s.attached = true → (∀ d n, s.cfg.hasLane n = true → aligned s.cfg (s.buf d n) = true) →
    (∀ d, hasReserved s.cfg (s.bank d).en = false ∧ hasReserved s.cfg (s.bank d).rst = false) →
    let zero (v : Vector Word 32) : Vector Word 32 := forLanes s.cfg (fun _ => 0) v
    ∃ t, exec .detach s = .next t ∧
      controlPart t = controlPart { s with
        tx := { s.tx with en := 0, rst := 0, ier := 0, sw := zero s.tx.sw, base := zero s.tx.base }
        rx := { s.rx with
          en := 0
          rst := 0
          ier := 0
          sw := zero s.rx.sw
          base := forLanes s.cfg (fun n => s.cfg.rxBufPhys[n.val]) s.rx.base }
        attached := false
        txChan := forLanes s.cfg (fun _ => Chan.reset) s.txChan
        rxChan := forLanes s.cfg (fun _ => Chan.reset) s.rxChan
        txBuf := zero s.txBuf } ∧
      (∀ d n, sourcePending s d n = true → sourcePending t d n = true) ∧
      (∀ n, s.cfg.hasLane n = true → t.txMoved[n.val] = false ∧
        (s.cfg.hwMayCorrupt = false → ∀ d : Dir, (t.bank d).hw[n.val] = 0)) ∧
      t.cur = none ∧ t.seen = [] ∧
      ∃ es, t.hist = s.hist ++ es ++ [.result .detach .ok none] ∧ es.filter Event.isOwn = []

/-- R194: CLAIM_RX of a free lane makes it owned and returns the lane's receive buffer; no register and no
other state changes. -/
def Obligations.ClaimRxOwnsLane : Prop :=
  ∀ (s : State) (f : LaneField) (n : Lane) (owner : Owner) (cb : Callback),
    s.attached = true → laneOf s.cfg f = some n → (s.chan .rx n).slot = .free →
    ∃ t, exec (.claimRx f owner cb) s = .next t ∧
      Ended (.claimRx f owner cb) (okValue s.cfg.rxBufPhys[n.val].toNat) [] s
        (s.setChan .rx n { s.chan .rx n with slot := .owned owner cb }) t

/-- R195: CLAIM_TX of a free, disabled lane with an aligned buffer that fits writes the lane's base, its
buffer and its slot, and nothing else; an unaligned buffer faults `BaseAlign`, and an aligned one that
passes the top of memory or meets the register window, a receive ring or an owned transmit ring faults
`Overlap`. -/
def Obligations.ClaimTxOwnsLane : Prop :=
  ∀ (s : State) (f : LaneField) (n : Lane) (owner : Owner) (cb : Callback) (addr : Word),
    s.attached = true → laneOf s.cfg f = some n → (s.chan .tx n).slot = .free →
    let fits : Prop := addr.toNat + cap s.cfg .tx ≤ 2 ^ 32 ∧
      disjoint (ringRegion s.cfg .tx addr) (windowRegion s.cfg) = true ∧
      (∀ m : Lane, s.cfg.hasLane m = true →
        disjoint (ringRegion s.cfg .tx addr) (ringRegion s.cfg .rx s.cfg.rxBufPhys[m.val]) = true) ∧
      ∀ m : Lane, s.cfg.hasLane m = true → (s.chan .tx m).slot.isOwned = true →
        disjoint (ringRegion s.cfg .tx addr) (ringRegion s.cfg .tx s.txBuf[m.val]) = true
    (addr.toNat % bufAlign s.cfg ≠ 0 → exec (.claimTx f owner cb addr) s = .fault .baseAlign) ∧
    (addr.toNat % bufAlign s.cfg = 0 → ¬ fits →
      exec (.claimTx f owner cb addr) s = .fault .overlap) ∧
    (addr.toNat % bufAlign s.cfg = 0 → fits → laneEnabled s .tx n = false →
      ∃ t, exec (.claimTx f owner cb addr) s = .next t ∧
        Ended (.claimTx f owner cb addr) okRet [] s
          (((s.withBase .tx n addr).setTxBuf n addr).setChan .tx n
            { s.chan .tx n with slot := .owned owner cb }) t)

/-- R197: TRIGGER of an owned, `Idle`, disabled receive lane zeroes both its pointers and `head` and `tail`,
pulses its reset, sets its enable bit and makes it `Armed`; its base, its status bit, its work flag and
every other lane stay. -/
def Obligations.TriggerIdleReceive : Prop :=
  ∀ (s : State) (f : LaneField) (n : Lane), s.attached = true → laneOf s.cfg f = some n →
    (s.chan .rx n).slot.isOwned = true → (s.chan .rx n).run = .idle → laneEnabled s .rx n = false →
    ∃ t, exec (.trigger .rx f) s = .next t ∧
      Ended (.trigger .rx f) okRet [] s
        ((({ dropReserved s with
            rx := { s.rx with
              en := withLaneBit s.cfg s.rx.en n
              rst := 0
              hw := s.rx.hw.set n.val 0
              sw := s.rx.sw.set n.val 0 } } : State)).setChan .rx n
          { s.chan .rx n with head := 0, tail := 0, run := .armed }) t

/-- R198: TRIGGER of an owned, `Idle`, disabled transmit lane writes `tail` to its hardware pointer and
`head` to its software pointer, pulses its reset, sets its enable bit and makes it `Armed`; `head`, `tail`
and every other lane stay. -/
def Obligations.TriggerIdleTransmit : Prop :=
  ∀ (s : State) (f : LaneField) (n : Lane), s.attached = true → laneOf s.cfg f = some n →
    (s.chan .tx n).slot.isOwned = true → (s.chan .tx n).run = .idle → laneEnabled s .tx n = false →
    (s.chan .tx n).head < cap s.cfg .tx → (s.chan .tx n).tail < cap s.cfg .tx →
    ∃ t, exec (.trigger .tx f) s = .next t ∧
      Ended (.trigger .tx f) okRet [] s
        (({ dropReserved s with
            tx := { s.tx with
              en := withLaneBit s.cfg s.tx.en n
              rst := 0
              hw := s.tx.hw.set n.val (toWord (s.chan .tx n).tail)
              sw := s.tx.sw.set n.val (toWord (s.chan .tx n).head) }
            txMoved := s.txMoved.set n.val false } : State).setChan .tx n
          { s.chan .tx n with run := .armed }) t

/-- R199: TRIGGER of an owned, `Paused` lane sets its enable bit and makes it `Armed`; no pointer changes. -/
def Obligations.TriggerPausedResumes : Prop :=
  ∀ (s : State) (d : Dir) (f : LaneField) (n : Lane), s.attached = true → laneOf s.cfg f = some n →
    (s.chan d n).slot.isOwned = true → (s.chan d n).run = .paused →
    ∃ t, exec (.trigger d f) s = .next t ∧
      Ended (.trigger d f) okRet [] s
        (((dropReserved s).withEn d (withLaneBit s.cfg (s.bank d).en n)).setChan d n
          { s.chan d n with run := .armed }) t

/-- R201, R345: STOP, whatever the lane's state, clears its enable bit, pulses its reset, zeroes its
pointers, writes its base with its buffer and makes it `Idle`; a receive lane's `head` and `tail` become 0,
a transmit lane's `tail` becomes `head`; slot, work flag and status bit stay. Whatever the lane agents did
meanwhile, the hardware pointer ends 0 on hardware that does not corrupt pointers. -/
def Obligations.StopResetsLane : Prop :=
  ∀ (s : State) (d : Dir) (f : LaneField) (n : Lane), s.attached = true → laneOf s.cfg f = some n →
    aligned s.cfg (s.buf d n) = true →
    ∃ t, exec (.stop d f) s = .next t ∧
      (s.cfg.hwMayCorrupt = false → (t.bank d).hw[n.val] = 0) ∧
      Ended (.stop d f) okRet [] s
        ((((dropReserved s).setBank d { s.bank d with
            en := withoutLaneBit s.cfg (s.bank d).en n
            rst := 0
            hw := (s.bank d).hw.set n.val 0
            sw := (s.bank d).sw.set n.val 0
            base := (s.bank d).base.set n.val (s.buf d n) }).withStill d n).setChan d n
          { s.chan d n with
            run := .idle
            head := match d with
              | .rx => 0
              | .tx => (s.chan d n).head
            tail := match d with
              | .rx => 0
              | .tx => (s.chan d n).head }) t

/-- R202: PAUSE of an `Armed` lane clears its enable bit and makes it `Paused`; pointers, ring, slot and
every other lane stay. -/
def Obligations.PauseKeepsPointers : Prop :=
  ∀ (s : State) (d : Dir) (f : LaneField) (n : Lane), s.attached = true → laneOf s.cfg f = some n →
    (s.chan d n).run = .armed →
    ∃ t, exec (.pause d f) s = .next t ∧
      Ended (.pause d f) okRet [] s
        (((dropReserved s).withEn d (withoutLaneBit s.cfg (s.bank d).en n)).setChan d n
          { s.chan d n with run := .paused }) t

/-- R203: RELEASE of an owned lane stops it and frees it: `head`, `tail` 0, no work; a transmit lane's base
and buffer become 0. -/
def Obligations.ReleaseFreesLane : Prop :=
  ∀ (s : State) (d : Dir) (f : LaneField) (n : Lane), s.attached = true → laneOf s.cfg f = some n →
    (s.chan d n).slot.isOwned = true → aligned s.cfg (s.buf d n) = true →
    ∃ t, exec (.release d f) s = .next t ∧
      Ended (.release d f) okRet [] s
        (({ ((dropReserved s).setBank d { s.bank d with
              en := withoutLaneBit s.cfg (s.bank d).en n
              rst := 0
              hw := (s.bank d).hw.set n.val 0
              sw := (s.bank d).sw.set n.val 0
              base := (s.bank d).base.set n.val (match d with
                | .tx => 0
                | .rx => s.cfg.rxBufPhys[n.val]) }).withStill d n with
            txBuf := match d with
              | .tx => s.txBuf.set n.val 0
              | .rx => s.txBuf } : State).setChan d n
          { slot := .free, run := .idle, head := 0, tail := 0, work := false }) t

/-! ### Ring protocol -/

/-- R243: UPDSW of an owned lane with a value below the capacity sets the software index (RX `tail`, TX
`head`) and publishes it in the software pointer (a write that the register ignores while the lane's reset
bit is 1), and changes nothing else. -/
def Obligations.UpdswPublishes : Prop :=
  ∀ (s : State) (d : Dir) (f : LaneField) (n : Lane) (v : Word), s.attached = true →
    laneOf s.cfg f = some n → (s.chan d n).slot.isOwned = true → v.toNat < cap s.cfg d →
    ∃ t, exec (.updsw d f v) s = .next t ∧
      Ended (.updsw d f v) okRet [] s
        ((if laneInReset s d n then s else s.withSw d n v).setChan d n (match d with
          | .rx => { s.chan .rx n with tail := v.toNat }
          | .tx => { s.chan .tx n with head := v.toNat })) t

/-- R244: RDHW returns the lane's hardware pointer where it is below the capacity, and changes nothing. -/
def Obligations.RdhwReturnsPointer : Prop :=
  ∀ (s : State) (d : Dir) (f : LaneField) (n : Lane) (v : Word), s.attached = true →
    laneOf s.cfg f = some n → ((interleave s).bank d).hw[n.val] = v → v.toNat < cap s.cfg d →
    ∃ t, exec (.rdhw d f) s = .next t ∧ Ended (.rdhw d f) (okValue v.toNat) [] s s t

/-- R242: a hardware pointer out of range, read by RDHW, RXDRAIN or TXCOMP (by the last two of a lane that
is not `Idle`), logs the anomaly, forces the lane to Stop, reports an I/O error to the owner, in that order
and under every schedule, and returns `CorruptPointer`; so does, for TXCOMP, a pointer beyond `head` (R258).
(WORK and DISPATCH on such a lane: `WorkIsItsJob`, `DispatchServicesEveryPendingLane`.) -/
def Obligations.CorruptPointerStopsLane : Prop :=
  ∀ (s : State) (d : Dir) (f : LaneField) (n : Lane) (owner : Owner) (cb : Callback) (v : Word),
    s.attached = true → laneOf s.cfg f = some n → aligned s.cfg (s.buf d n) = true →
    (s.chan d n).slot = .owned owner cb → ((interleave s).bank d).hw[n.val] = v →
    ∀ i : Instr,
      (i = .rdhw d f ∧ cap s.cfg d ≤ v.toNat) ∨
      (i = .rxdrain f ∧ d = .rx ∧ (s.chan d n).run ≠ .idle ∧ cap s.cfg d ≤ v.toNat) ∨
      (i = .txcomp f ∧ d = .tx ∧ (s.chan d n).run ≠ .idle ∧ (cap s.cfg d ≤ v.toNat ∨
        pendingCount s .tx n < ringSub (ringMask s.cfg .tx) v.toNat (s.chan .tx n).tail)) →
      ∃ t, exec i s = .next t ∧
        Ended i { code := .corruptPointer, value := none }
          [.anomaly .corruptPointer (some d) (some n), .ioError owner d n] s (stopped s d n) t

/-- R245, R247: RXDRAIN of an `Idle` lane returns 0 and touches nothing; with nothing to read it returns 0
and writes only `head`. -/
def Obligations.RxdrainNothingToDo : Prop :=
  ∀ (s : State) (f : LaneField) (n : Lane), s.attached = true → laneOf s.cfg f = some n →
    ((s.chan .rx n).run = .idle →
      exec (.rxdrain f) s = .next (answeredOnly s (.rxdrain f) .ok (some 0))) ∧
    ((s.chan .rx n).run ≠ .idle → (s.chan .rx n).tail < cap s.cfg .rx →
      (interleave s).rx.hw[n.val].toNat = (s.chan .rx n).tail →
      ∃ t, exec (.rxdrain f) s = .next t ∧
        Ended (.rxdrain f) (okValue 0) [] s
          (s.setChan .rx n { s.chan .rx n with head := (s.chan .rx n).tail }) t)

/-- R245, R248, R249, R251: RXDRAIN of an owned lane that is not `Idle`, with bytes to read, delivers under
every schedule as many bytes as the stream accepts, sets `head` to the pointer it read, advances `tail` by
that count only and publishes it in `RX_RD[n]`. The bytes are those of the ring from `tail` on, in ring order
across the boundary: as they stood when it began, with no lane-agent step scheduled, and as they stood when
it read the pointer, in a state that commands built, on hardware that does not corrupt pointers. The re-check
reads the pointer once more, and the work flag ends set where it differs from the first reading: where the
schedule lets lane agents move first before that second reading, exactly there; the flag is never cleared. -/
def Obligations.RxdrainDeliversAccepted : Prop :=
  ∀ (s : State) (f : LaneField) (n : Lane) (owner : Owner) (cb : Callback) (h : Word),
    s.attached = true → laneOf s.cfg f = some n → (s.chan .rx n).run ≠ .idle →
    (s.chan .rx n).slot = .owned owner cb → (s.chan .rx n).tail < cap s.cfg .rx →
    (s.buf .rx n).toNat + cap s.cfg .rx ≤ 2 ^ 32 → (interleave s).rx.hw[n.val] = h →
    h.toNat < cap s.cfg .rx → h.toNat ≠ (s.chan .rx n).tail →
    let avail := ringSub (ringMask s.cfg .rx) h.toNat (s.chan .rx n).tail
    let acc := nextAccepted s avail
    ∃ (t : State) (w : Bool) (bytes : List Byte), exec (.rxdrain f) s = .next t ∧
      Ended (.rxdrain f) (okValue acc) (drainEvents owner n bytes) s (drained s n h.toNat acc w) t ∧
      bytes.length = acc ∧
      (s.sched = [] → bytes = ringBytes s .rx n (s.chan .rx n).tail acc) ∧
      (CommandInv s → s.cfg.hwMayCorrupt = false →
        bytes = ringBytes (interleave s) .rx n (s.chan .rx n).tail acc) ∧
      ((s.chan .rx n).work = true → w = true) ∧ (s.sched = [] → w = (s.chan .rx n).work) ∧
      ∀ (later : List LaneStep) (rest : List (List LaneStep)),
        s.sched = List.replicate (avail + if acc = 0 then 5 else 7) [] ++ later :: rest →
        w = ((s.chan .rx n).work ||
          decide ((laneSteps (drained s n h.toNat acc false) later).rx.hw[n.val] ≠ h))

/-- R253, R254: whatever the lane agents do meanwhile, an RXDRAIN loses and duplicates no byte: the bytes in
the ring before it and those received during it are, in order, the bytes it delivers and those in the ring
after it. -/
def Obligations.ReceiveLosesNoByte : Prop :=
  ∀ (s : State) (f : LaneField) (n : Lane), CommandInv s → s.attached = true →
    laneOf s.cfg f = some n → s.cfg.hwMayCorrupt = false → (s.chan .rx n).run ≠ .idle →
    ∃ t es, exec (.rxdrain f) s = .next t ∧ t.hist = s.hist ++ es ∧
      unreadBytes s n ++ receivedBytes n es = deliveredBytes n es ++ unreadBytes t n ∧
      t.rx.sw[n.val] = toWord (t.chan .rx n).tail

/-- R255, R257: TXPROD of an owned lane copies `k` bytes, the least of the count, the space and the refill
unit, into the ring from `head` on and writes no other byte, advances `head` by `k`, publishes it in
`TX_WR[n]`, triggers the lane if it is `Idle` and `k > 0`, wakes the writer below the low-water mark (one
`SpaceAvailable`, under every schedule) and reschedules itself when a full unit was copied and more remains
with space. Memory ends as the copy leaves it unless a receive lane stored a byte meanwhile; the copied bytes
stand in the ring even then, in a state that commands built. Bytes that `data` does not hold though R100 asks
for them are free values (`streamByte`, the model's choice, log 9). -/
def Obligations.TxprodRefillsRing : Prop :=
  ∀ (s : State) (f : LaneField) (n : Lane) (owner : Owner) (cb : Callback) (count : Nat)
      (data : List Byte), s.attached = true → laneOf s.cfg f = some n →
    (s.chan .tx n).slot = .owned owner cb → (s.chan .tx n).head < cap s.cfg .tx →
    (s.chan .tx n).tail < cap s.cfg .tx → (s.buf .tx n).toNat + cap s.cfg .tx ≤ 2 ^ 32 →
    ((s.chan .tx n).run = .idle → laneEnabled s .tx n = false) → Memory.wf s.mem →
    let k := min (min count (cap s.cfg .tx - 1 - pendingCount s .tx n)) (refillUnit s.cfg)
    let cell (i : Nat) : Nat := (s.buf .tx n).toNat + ((s.chan .tx n).head + i) % cap s.cfg .tx
    (∃ t, exec (.txprod f count data) s = .next t ∧
      Ended (.txprod f count data) (okValue k) (wakeEvents s owner n (count - k)) s
        (refilled s n count data k) t ∧
      (∀ es, t.hist = s.hist ++ es → (∀ m b, Event.lineRx m b ∉ es) →
        t.mem = (refilled s n count data k).mem) ∧
      (CommandInv s → ∀ i < k, memRead t.mem (cell i) = streamByte data i)) ∧
    (∀ i < k, memRead (refilled s n count data k).mem (cell i) = streamByte data i) ∧
    (∀ a, (∀ i < k, a ≠ cell i) → memRead (refilled s n count data k).mem a = memRead s.mem a)

/-- R258: TXCOMP of an `Idle` lane returns `tail` and touches nothing; of another lane, where the hardware
pointer is in range and on the forward path from `tail` to `head`, it sets `tail` to the pointer and rewrites
`TX_WR[n]` with `head` if bytes remain. The re-check reads the pointer once more, and the work flag ends set
where it differs from the first reading: where the schedule lets lane agents move first before that second
reading, exactly there; the flag is never cleared. -/
def Obligations.TxcompSynchronises : Prop :=
  ∀ (s : State) (f : LaneField) (n : Lane) (r : Word), s.attached = true → laneOf s.cfg f = some n →
    ((s.chan .tx n).run = .idle →
      exec (.txcomp f) s = .next (answeredOnly s (.txcomp f) .ok (some (s.chan .tx n).tail))) ∧
    ((s.chan .tx n).run ≠ .idle → (s.chan .tx n).head < cap s.cfg .tx →
      (interleave s).tx.hw[n.val] = r → r.toNat < cap s.cfg .tx →
      ringSub (ringMask s.cfg .tx) r.toNat (s.chan .tx n).tail ≤ pendingCount s .tx n →
      ∃ (t : State) (w : Bool), exec (.txcomp f) s = .next t ∧
        Ended (.txcomp f) (okValue r.toNat) [] s (completed s n r.toNat w) t ∧
        ((s.chan .tx n).work = true → w = true) ∧ (s.sched = [] → w = (s.chan .tx n).work) ∧
        ∀ (later : List LaneStep) (rest : List (List LaneStep)),
          s.sched = List.replicate (if (s.chan .tx n).head = r.toNat then 2 else 3) [] ++ later :: rest →
          w = ((s.chan .tx n).work ||
            decide ((laneSteps (completed s n r.toNat false) later).tx.hw[n.val] ≠ r)))

/-- R259, R260: two completions, one at `r1` and one at `r2` further on the path to `head`, leave the `tail`
and the pending count that one completion at `r2` leaves; at `head` nothing is pending. Stated where no
lane-agent step is scheduled. -/
def Obligations.TransmitRoundTrip : Prop :=
  ∀ (s : State) (f : LaneField) (n : Lane) (r1 r2 : Word), s.attached = true →
    laneOf s.cfg f = some n → s.sched = [] → (s.chan .tx n).run ≠ .idle →
    (s.chan .tx n).head < cap s.cfg .tx → (s.chan .tx n).tail < cap s.cfg .tx →
    r1.toNat < cap s.cfg .tx → r2.toNat < cap s.cfg .tx →
    ringSub (ringMask s.cfg .tx) r1.toNat (s.chan .tx n).tail ≤
      ringSub (ringMask s.cfg .tx) r2.toNat (s.chan .tx n).tail →
    ringSub (ringMask s.cfg .tx) r2.toNat (s.chan .tx n).tail ≤ pendingCount s .tx n →
    ∃ t1 t2 t, exec (.txcomp f) (s.withHw .tx n r1) = .next t1 ∧
      exec (.txcomp f) (t1.withHw .tx n r2) = .next t2 ∧
      exec (.txcomp f) (s.withHw .tx n r2) = .next t ∧
      (t2.chan .tx n).tail = r2.toNat ∧ (t.chan .tx n).tail = r2.toNat ∧
      pendingCount t2 .tx n = pendingCount t .tx n ∧
      (r2.toNat = (s.chan .tx n).head → pendingCount t2 .tx n = 0)

/-- R262: WORK with nothing scheduled touches nothing; otherwise it clears the flag and runs the lane's job:
the drain of a receive lane, and of a transmit lane the completion and then a refill from the outgoing
stream. Stated where no lane-agent step is scheduled (under every schedule: `WorkIsItsJob`). Bytes that the
drawn offer does not hold though R256 asks for them are free values (`refilled` takes them from
`streamByte`, the model's choice, log 9). -/
def Obligations.WorkRunsTheJob : Prop :=
  ∀ (s : State) (d : Dir) (f : LaneField) (n : Lane), s.attached = true → laneOf s.cfg f = some n →
    ((s.chan d n).work = false →
      exec (.work d f) s = .next (answeredOnly s (.work d f) .ok none)) ∧
    (∀ (owner : Owner) (cb : Callback) (h : Word), d = .rx → s.sched = [] → (s.chan .rx n).work = true →
      (s.chan .rx n).run ≠ .idle → (s.chan .rx n).slot = .owned owner cb →
      (s.chan .rx n).tail < cap s.cfg .rx → (s.buf .rx n).toNat + cap s.cfg .rx ≤ 2 ^ 32 →
      s.rx.hw[n.val] = h → h.toNat < cap s.cfg .rx → h.toNat ≠ (s.chan .rx n).tail →
      let acc := nextAccepted s (ringSub (ringMask s.cfg .rx) h.toNat (s.chan .rx n).tail)
      exec (.work .rx f) s = .next (endCommand (.work .rx f) (okValue acc)
        ((drained s n h.toNat acc false).setHist
          (s.hist ++ drainEvents owner n (ringBytes s .rx n (s.chan .rx n).tail acc))))) ∧
    (∀ (owner : Owner) (cb : Callback) (r : Word), d = .tx → s.sched = [] → (s.chan .tx n).work = true →
      (s.chan .tx n).run ≠ .idle → (s.chan .tx n).slot = .owned owner cb →
      (s.chan .tx n).head < cap s.cfg .tx → (s.buf .tx n).toNat + cap s.cfg .tx ≤ 2 ^ 32 →
      s.tx.hw[n.val] = r → r.toNat < cap s.cfg .tx →
      ringSub (ringMask s.cfg .tx) r.toNat (s.chan .tx n).tail ≤ pendingCount s .tx n →
      let offer := nextStream s
      let u := dropStream (completed s n r.toNat false)
      let k := refillCount u.cfg (u.chan .tx n) offer.1
      exec (.work .tx f) s = .next (endCommand (.work .tx f) okRet
        ((refilled u n offer.1 offer.2 k).setHist (s.hist ++ wakeEvents s owner n (offer.1 - k)))))

/-- R262, R256: under every schedule WORK of a lane with work is, once it has cleared the flag, the commands
whose work it does, on an `Idle` lane, with nothing to read and where one of them stops too: of a receive
lane RXDRAIN; of a transmit lane TXCOMP, and unless that returned `CorruptPointer` the draw of an offer and,
on an owned lane, TXPROD of it. WORK's own `Result` stands for theirs. A corrupt pointer takes the
CorruptPointer path. Offers shorter than R256 asks are as in log 9. -/
def Obligations.WorkIsItsJob : Prop :=
  ∀ (s : State) (d : Dir) (f : LaneField) (n : Lane), s.attached = true → laneOf s.cfg f = some n →
    (s.chan d n).work = true →
    let begun := (interleave s).setChan d n { s.chan d n with work := false }
    (d = .rx →
      (∀ t, exec (.rxdrain f) begun = .next t → ∃ r : Ret,
        t.hist.getLast? = some (.result (.rxdrain f) r.code r.value) ∧
        exec (.work .rx f) s = .next (relabelled t (.work .rx f) r)) ∧
      (∀ r, exec (.rxdrain f) begun = .fault r → exec (.work .rx f) s = .fault r)) ∧
    (d = .tx →
      (∀ t, exec (.txcomp f) begun = .next t → ∃ r : Ret,
        t.hist.getLast? = some (.result (.txcomp f) r.code r.value) ∧
        (r.code = .corruptPointer → exec (.work .tx f) s = .next (relabelled t (.work .tx f) r)) ∧
        (r.code ≠ .corruptPointer →
          let offer := nextStream t
          let u := dropStream (t.setHist t.hist.dropLast)
          ((s.chan .tx n).slot = .free →
            exec (.work .tx f) s = .next (answeredOnly u (.work .tx f) .ok none)) ∧
          ((s.chan .tx n).slot.isOwned = true →
            (∀ v, exec (.txprod f offer.1 offer.2) u = .next v →
              exec (.work .tx f) s = .next (relabelled v (.work .tx f) okRet)) ∧
            (∀ r, exec (.txprod f offer.1 offer.2) u = .fault r → exec (.work .tx f) s = .fault r)))) ∧
      (∀ r, exec (.txcomp f) begun = .fault r → exec (.work .tx f) s = .fault r)) ∧
    (∀ (owner : Owner) (cb : Callback) (v : Word), (s.chan d n).run ≠ .idle →
      aligned s.cfg (s.buf d n) = true → (s.chan d n).slot = .owned owner cb →
      ((interleave (interleave s)).bank d).hw[n.val] = v →
      (cap s.cfg d ≤ v.toNat ∨ (d = .tx ∧
        pendingCount s .tx n < ringSub (ringMask s.cfg .tx) v.toNat (s.chan .tx n).tail)) →
      ∃ t, exec (.work d f) s = .next t ∧
        Ended (.work d f) { code := .corruptPointer, value := none }
          [.anomaly .corruptPointer (some d) (some n), .ioError owner d n] s
          (stopped (s.setChan d n { s.chan d n with work := false }) d n) t)

/-! ### The dispatcher -/

/-- R280, R285: DISPATCH with no lane's status bit set logs the reserved bits it saw and a spurious interrupt,
acknowledges nothing and returns 0. -/
def Obligations.DispatchSpurious : Prop :=
  ∀ s : State, s.attached = true → s.sched = [] → (∀ d n, sourcePending s d n = false) →
    exec .dispatch s = .next (endCommand .dispatch (okValue 0)
      { dropReserved (dropReserved s) with
        hist := s.hist ++
          (if nextReserved s &&& ~~~laneMask s.cfg = 0 then []
            else [.anomaly .reservedStatusBit (some .tx) none]) ++
          (if nextReserved (dropReserved s) &&& ~~~laneMask s.cfg = 0 then []
            else [.anomaly .reservedStatusBit (some .rx) none]) ++
          [.anomaly .spuriousInterrupt none none] })

/-- R280, R281, R283, R284, R285, R305: DISPATCH acknowledges every pending source and completes each, whatever
mixture of lanes is pending: an `Armed` lane with its hardware pointer in range has its callback invoked with
that pointer and its work flag set; one whose pointer is out of range takes the CorruptPointer path; any
other is quieted and logged and, an `Idle` receive lane in range, resynchronised. DISPATCH returns 1, and
nothing else changes. The order of the lanes' events, transmit lanes first and each direction ascending, is
the spec's own decision (D22): R286 promises none. Stated where no lane-agent step is scheduled. -/
def Obligations.DispatchServicesEveryPendingLane : Prop :=
  ∀ s : State, s.attached = true → s.sched = [] → (∃ d n, sourcePending s d n = true) →
    (∀ d, hasReserved s.cfg (s.bank d).en = false) →
    (∀ d n, sourcePending s d n = true → corruptCompletion s d n = true →
      aligned s.cfg (s.buf d n) = true) →
    let corrupt (d : Dir) (n : Lane) : Bool := sourcePending s d n && corruptCompletion s d n
    let quieted (d : Dir) (n : Lane) : Bool :=
      sourcePending s d n && (!enabled s d n || corruptCompletion s d n)
    ∃ t, exec .dispatch s = .next t ∧
      t = { s with
        tx := { t.tx with ier := s.tx.ier }
        rx := { t.rx with ier := s.rx.ier }
        txMoved := t.txMoved
        txChan := t.txChan
        rxChan := t.rxChan
        draws := t.draws
        cur := none
        seen := []
        hist := s.hist ++ reservedEvents s ++
          (pendingLanes s .tx).flatMap (completionEvents s .tx) ++
          (pendingLanes s .rx).flatMap (completionEvents s .rx) ++ [.result .dispatch .ok (some 1)] } ∧
      (∀ d, hasReserved s.cfg (t.bank d).en = false ∧
        (t.bank d).isr &&& ~~~laneMask s.cfg = (s.bank d).isr &&& ~~~laneMask s.cfg ∧
        ((∃ n, corrupt d n = true) → (t.bank d).rst = 0) ∧
        ((∀ n, corrupt d n = false) → (t.bank d).rst = (s.bank d).rst)) ∧
      (∀ (d : Dir) (n : Lane), sourcePending t d n = false ∧
        laneEnabled t d n = (laneEnabled s d n && !quieted d n) ∧
        (t.bank d).hw[n.val] = (if corrupt d n then 0 else (s.bank d).hw[n.val]) ∧
        (t.bank d).sw[n.val] = (if corrupt d n then 0 else (s.bank d).sw[n.val]) ∧
        (t.bank d).base[n.val] = (if corrupt d n then s.buf d n else (s.bank d).base[n.val]) ∧
        t.chan d n = (if sourcePending s d n then completionEntry s d n else s.chan d n)) ∧
      ∀ n : Lane, t.txMoved[n.val] = (s.txMoved[n.val] && !corrupt .tx n)

/-- R282, R281 (vector DP8): DISPATCH acknowledges a lane's bit before its completion logic, so a completion the
lane agent latches after the acknowledgement stays latched; the callback is invoked all the same. The
schedule puts the status-set step between the ACK and the read of the hardware pointer, which is the fourth
micro-step where neither status word shows a reserved bit. -/
def Obligations.LateCompletionStaysLatched : Prop :=
  ∀ (s : State) (d : Dir) (n : Lane) (owner : Owner) (cb : Callback) (later : List LaneStep)
      (rest : List (List LaneStep)), s.attached = true → s.cfg.hwMayCorrupt = false →
    hasReserved s.cfg (nextReserved s) = false →
    hasReserved s.cfg (nextReserved (dropReserved s)) = false →
    s.sched = [] :: [] :: [] :: later :: rest → LaneStep.status d n ∈ later →
    laneActive s d n = true → (s.chan d n).run = .armed → (s.chan d n).slot = .owned owner cb →
    (s.bank d).hw[n.val].toNat < cap s.cfg d →
    (∀ e m, sourcePending s e m = true ↔ e = d ∧ m = n) →
    ∃ t v, exec .dispatch s = .next t ∧ sourcePending t d n = true ∧ (t.chan d n).work = true ∧
      Event.callback owner cb d n v ∈ t.hist

/-- R284, R288: a completion on a lane that is not `Armed`, the only one pending, is acknowledged and logged,
its lane's enable bit cleared and, on an `Idle` receive lane, `head` and `tail` set to the hardware pointer
if that is in range; no callback is invoked and no work scheduled. Stated where no lane-agent step is
scheduled. -/
def Obligations.DisabledLaneCompletionIsAbsorbed : Prop :=
  ∀ (s : State) (d : Dir) (n : Lane), s.attached = true → s.sched = [] → (s.chan d n).run ≠ .armed →
    (∀ e m, sourcePending s e m = true ↔ e = d ∧ m = n) →
    let resync : Bool := decide (d = .rx ∧ (s.chan d n).run = .idle ∧
      (s.bank d).hw[n.val].toNat < cap s.cfg d)
    exec .dispatch s = .next (endCommand .dispatch (okValue 1)
      { ((dropReserved (dropReserved (dropReserved s))).setBank d { s.bank d with
            isr := (s.bank d).isr &&& ~~~laneBit n
            en := withoutLaneBit s.cfg (s.bank d).en n }).setChan d n
          (if resync then { s.chan d n with
              head := (s.bank d).hw[n.val].toNat, tail := (s.bank d).hw[n.val].toNat }
            else s.chan d n) with
        hist := s.hist ++ reservedEvents s ++ [.anomaly .disabledLaneCompletion (some d) (some n)] })

/-! ### Invariants -/

/-- The machine right after reset meets the invariant: memory canonical, no reserved bit set in an enable,
reset or interrupt-enable register, pointers and indices in range, bases aligned, no command half done. It
steps as R47 counts steps. The register values are the model's (log 1). -/
def Obligations.ResetSatisfiesInvariant : Prop :=
  CoreInv State.reset ∧ State.reset.attached = false ∧ State.reset.hist = [] ∧
    State.reset.faulted = none ∧ State.reset.refused = false ∧ State.reset.pace = .atomic ∧
    State.reset.cfg.numLanes = 12

/-- Every step of either pace, also one between two micro-steps of a command, whatever the host issues and the
lane agents do, keeps the machine's invariant: memory stays canonical, no reserved bit enters an enable, reset
or interrupt-enable register, a lane in reset keeps both pointers 0, pointers and indices stay in range, bases
stay aligned. -/
def Obligations.StepKeepsInvariant : Prop :=
  ∀ s t : State, CoreParts s → step s = .next t → CoreParts t

/-- R47, R49 clause 1, R44: on every run of either pace from a state that meets the invariant between commands,
`StepKeepsInvariant`'s invariant holds all along, and whenever no command is half done a started lane is
owned and an unowned transmit lane has no buffer. -/
def Obligations.RunsKeepInvariant : Prop :=
  ∀ (k : Nat) (s t : State), CoreInv s → Host.Core.run Sys2Proof.core k s = .next t →
    CoreParts t ∧ (t.cur = none → CoreInv t)

/-- R49, R350, R357: every command keeps the invariants of R49, and none raises a register fault or refuses:
a command that stops does so with `NotAttached`, `AlreadyAttached`, `BaseAlign` or `Overlap`. -/
def Obligations.CommandsKeepDiscipline : Prop :=
  ∀ (s : State) (i : Instr), CommandInv s → isCommand i = true →
    (∀ t, exec i s = .next t → CommandInv t) ∧
    (∀ r, exec i s = .fault r →
      r = .notAttached ∨ r = .alreadyAttached ∨ r = .baseAlign ∨ r = .overlap) ∧
    (∀ r, exec i s ≠ .refused r)

/-- R341, R49: ATTACH, from any state that meets the invariant every run keeps between commands, establishes
the invariants of R49. -/
def Obligations.AttachEstablishesDiscipline : Prop :=
  ∀ s t : State, CoreInv s → exec .attach s = .next t → CommandInv t ∧ t.attached = true

/-- R45, R48: the history is only appended to, and no step that answers a next state changes a mark, (R7) a
parameter or the pace. -/
def Obligations.HistoryOnlyGrows : Prop :=
  ∀ s t : State, step s = .next t →
    (∃ es, t.hist = s.hist ++ es) ∧ t.cfg = s.cfg ∧ t.faulted = s.faulted ∧ t.refused = s.refused ∧
      t.pace = s.pace

/-- R72, R162, R255: memory reads as last written; and a byte of memory changes only where a receive lane
agent stored one or, in TXPROD and WORK of a transmit lane, in the ring of that lane: an instruction during
which no byte was received, other than those two, leaves memory as it was. -/
def Obligations.MemoryFrame : Prop :=
  (∀ (m : Memory) (a x : Nat) (b : Byte), Memory.wf m →
    memRead (memWrite m a b) x = if x = a then b else memRead m x) ∧
  ∀ (i : Instr) (s t : State) (es : List Event), exec i s = .next t → t.hist = s.hist ++ es →
    (∀ n b, Event.lineRx n b ∉ es) → (∀ f count data, i ≠ .txprod f count data) →
    (∀ f, i ≠ .work .tx f) → t.mem = s.mem

/-- R170, R171: in an execution of the block, a status bit that is set between two commands, whose interrupt
enable stays on while the block stays attached, is eventually followed by a DISPATCH or by a direct write of
1 to it. What an execution of the block is, is the model's form of the obligations of R167, R168, R171 and
R262 (log 22). -/
def Obligations.LatchedCompletionIsDispatched : Prop :=
  ∀ (e : Execution) (k : Nat) (d : Dir) (n : Lane), e.Fair → sourcePending (e.st k) d n = true →
    (e.st k).cur = none →
    (∀ j, k ≤ j → (e.st j).attached = true ∧ sourceEnabled (e.st j) d n = true) →
    ∃ j, k ≤ j ∧ (e.issues j .dispatch ∨ ∃ v, testLane v n = true ∧ e.issues j (match d with
      | .tx => .st32TxIsr v
      | .rx => .st32RxIsr v))
end

