-- ==== Sys2Proof/Laws/Bits.lean ====
section
/-! SUPPORT. Lane bits of the bitmask registers (Machine/Flags.lean). -/

namespace Sys2Proof.Machine

theorem hasLane_iff {c : Params} {n : Lane} : c.hasLane n = true ↔ n.val < c.numLanes.val := by
  simp [Params.hasLane]

theorem mem_laneIndices (n : Lane) : n ∈ laneIndices := by revert n; decide

theorem nodup_laneIndices : laneIndices.Nodup := by decide

@[simp] theorem mem_lanes {c : Params} {n : Lane} : n ∈ c.lanes ↔ c.hasLane n = true := by
  simp [Params.lanes, mem_laneIndices]

theorem nodup_lanes (c : Params) : c.lanes.Nodup := nodup_laneIndices.filter _

@[simp] theorem testLane_laneMask (c : Params) (n : Lane) : testLane (laneMask c) n = c.hasLane n := by
  have hn : n.val < 32 := n.isLt
  rw [testLane, laneMask, BitVec.getLsbD_ofNat, Nat.testBit_two_pow_sub_one]
  simp [hn, Params.hasLane]

@[simp] theorem testLane_laneBit (n m : Lane) : testLane (laneBit n) m = decide (m = n) := by
  have hm : m.val < 32 := m.isLt
  rw [testLane, laneBit, BitVec.getLsbD_shiftLeft, BitVec.getLsbD_one, Bool.eq_iff_iff]
  simp only [hm, decide_true, Bool.true_and, Bool.and_eq_true, Bool.not_eq_true', decide_eq_true_eq,
    decide_eq_false_iff_not, Fin.ext_iff]
  omega

@[simp] theorem testLane_zero (n : Lane) : testLane 0#32 n = false := by simp [testLane]

theorem testLane_and (a b : Word) (n : Lane) : testLane (a &&& b) n = (testLane a n && testLane b n) := by
  simp [testLane]

theorem testLane_or (a b : Word) (n : Lane) : testLane (a ||| b) n = (testLane a n || testLane b n) := by
  simp [testLane]

theorem testLane_not (a : Word) (n : Lane) : testLane (~~~a) n = !testLane a n := by
  have : n.val < 32 := n.isLt
  simp [testLane, this]

/-- Two registers with the same bits are equal. -/
theorem word_ext {a b : Word} (h : ∀ n : Lane, testLane a n = testLane b n) : a = b := by
  ext i hi
  have := h ⟨i, hi⟩
  simpa only [testLane, BitVec.getLsbD_eq_getElem hi] using this

/-- A masked read shows the lane bits as stored, and the drawn bits above them. -/
theorem testLane_maskedRead (c : Params) (a r : Word) (n : Lane) :
    testLane (maskedRead c a r) n = if c.hasLane n then testLane a n else testLane r n := by
  simp only [maskedRead, testLane_or, testLane_and, testLane_not, testLane_laneMask]
  cases c.hasLane n <;> simp

@[simp] theorem testLane_withLaneBit (c : Params) (v : Word) (n m : Lane) :
    testLane (withLaneBit c v n) m = (c.hasLane m && (decide (m = n) || testLane v m)) := by
  simp [withLaneBit, testLane_and, testLane_or, Bool.and_comm, Bool.or_comm]

@[simp] theorem testLane_withoutLaneBit (c : Params) (v : Word) (n m : Lane) :
    testLane (withoutLaneBit c v n) m = (c.hasLane m && (!decide (m = n) && testLane v m)) := by
  simp [withoutLaneBit, testLane_and, testLane_not, Bool.and_comm]

@[simp] theorem testLane_writeOneToClear (a v : Word) (n : Lane) :
    testLane (writeOneToClear a v) n = (testLane a n && !testLane v n) := by
  simp [writeOneToClear, testLane_and, testLane_not]

@[simp] theorem testLane_latch (a : Word) (n m : Lane) :
    testLane (latch a n) m = (testLane a m || decide (m = n)) := by
  simp [latch, testLane_or]

theorem maskedRead_and_laneMask (c : Params) (a r : Word) :
    maskedRead c a r &&& laneMask c = a &&& laneMask c := by
  apply word_ext
  intro m
  simp only [testLane_and, testLane_maskedRead, testLane_laneMask]
  cases c.hasLane m <;> simp

/-- Having no reserved bit, lane by lane. -/
theorem hasReserved_eq_false {c : Params} {v : Word} :
    hasReserved c v = false ↔ ∀ n, c.hasLane n = false → testLane v n = false := by
  simp only [hasReserved, decide_eq_false_iff_not, not_not]
  constructor
  · intro h n hn
    have := congrArg (fun w => testLane w n) h
    simpa [testLane_and, testLane_not, hn] using this
  · intro h
    apply word_ext
    intro n
    simp only [testLane_and, testLane_not, testLane_laneMask]
    cases hn : c.hasLane n
    · simp [h n hn]
    · simp

@[simp] theorem hasReserved_withLaneBit (c : Params) (v : Word) (n : Lane) :
    hasReserved c (withLaneBit c v n) = false :=
  hasReserved_eq_false.mpr fun m hm => by simp [hm]

@[simp] theorem hasReserved_withoutLaneBit (c : Params) (v : Word) (n : Lane) :
    hasReserved c (withoutLaneBit c v n) = false :=
  hasReserved_eq_false.mpr fun m hm => by simp [hm]

@[simp] theorem hasReserved_zero (c : Params) : hasReserved c 0#32 = false :=
  hasReserved_eq_false.mpr fun m _ => by simp

@[simp] theorem hasReserved_laneMask (c : Params) : hasReserved c (laneMask c) = false :=
  hasReserved_eq_false.mpr fun m hm => by simp [hm]

theorem hasReserved_laneBit {c : Params} {n : Lane} (h : c.hasLane n = true) :
    hasReserved c (laneBit n) = false :=
  hasReserved_eq_false.mpr fun m hm => by
    have : m ≠ n := by rintro rfl; rw [h] at hm; cases hm
    simp [this]

theorem hasReserved_and_laneMask (c : Params) (v : Word) : hasReserved c (v &&& laneMask c) = false :=
  hasReserved_eq_false.mpr fun m hm => by simp [testLane_and, hm]

/-- A masked read has reserved bits where the draw has. -/
@[simp] theorem hasReserved_maskedRead (c : Params) (a r : Word) :
    hasReserved c (maskedRead c a r) = hasReserved c r := by
  rw [Bool.eq_iff_iff, ← not_iff_not, Bool.not_eq_true, Bool.not_eq_true, hasReserved_eq_false,
    hasReserved_eq_false]
  constructor <;> intro h n hn <;> have := h n hn <;> simpa [testLane_maskedRead, hn] using this

/-- Without reserved bits a value is its lane bits. -/
theorem and_laneMask_of_hasReserved {c : Params} {v : Word} (h : hasReserved c v = false) :
    v &&& laneMask c = v := by
  apply word_ext
  intro n
  simp only [testLane_and, testLane_laneMask]
  cases hn : c.hasLane n
  · simp [hasReserved_eq_false.mp h n hn]
  · simp

/-- Two values that agree on every lane have the same lane bits. -/
theorem laneMask_ext {c : Params} {a b : Word}
    (h : ∀ n : Lane, c.hasLane n = true → testLane a n = testLane b n) :
    a &&& laneMask c = b &&& laneMask c := by
  apply word_ext
  intro n
  simp only [testLane_and, testLane_laneMask]
  cases hn : c.hasLane n
  · simp
  · simp [h n hn]

/-- The lane bits of a value are all 0 when no lane's bit is set. -/
theorem and_laneMask_eq_zero {c : Params} {v : Word} :
    v &&& laneMask c = 0 ↔ ∀ n, c.hasLane n = true → testLane v n = false := by
  constructor
  · intro h n hn
    have := congrArg (fun w => testLane w n) h
    simpa [testLane_and, hn] using this
  · intro h
    have := laneMask_ext (c := c) (a := v) (b := 0) fun n hn => by simpa using h n hn
    simpa using this

/-- The SETEN value over a masked read depends on the stored lane bits only. -/
@[simp] theorem withLaneBit_maskedRead (c : Params) (a r : Word) (n : Lane) :
    withLaneBit c (maskedRead c a r) n = withLaneBit c a n := by
  apply word_ext
  intro m
  simp only [testLane_withLaneBit, testLane_maskedRead]
  cases c.hasLane m <;> simp

/-- The CLREN value over a masked read depends on the stored lane bits only. -/
@[simp] theorem withoutLaneBit_maskedRead (c : Params) (a r : Word) (n : Lane) :
    withoutLaneBit c (maskedRead c a r) n = withoutLaneBit c a n := by
  apply word_ext
  intro m
  simp only [testLane_withoutLaneBit, testLane_maskedRead]
  cases c.hasLane m <;> simp

/-- Clearing a bit that is 0 already changes nothing. -/
theorem withoutLaneBit_of_clear {c : Params} {v : Word} {n : Lane} (h : testLane v n = false)
    (hr : hasReserved c v = false) : withoutLaneBit c v n = v := by
  apply word_ext
  intro m
  simp only [testLane_withoutLaneBit]
  cases hm : c.hasLane m
  · simp [hasReserved_eq_false.mp hr m hm]
  · by_cases e : m = n
    · subst e; simp [h]
    · simp [e]

end Sys2Proof.Machine
end

