-- ==== Sys2Proof/Laws/Memory.lean ====
section
/-! SUPPORT. System memory (Machine/Memory.lean): read after write, and the canonical form. -/

namespace Sys2Proof.Machine

theorem memRead_memCons (a : Nat) (b : Byte) (m : Memory) (x : Nat) (h : x ≠ a ∨ memRead m a = unlistedByte) :
    memRead (memCons a b m) x = if x = a then b else memRead m x := by
  unfold memCons
  split
  · rename_i hb
    split
    · rename_i hx; rcases h with h | h
      · exact absurd hx h
      · rw [hx, h, hb]
    · rfl
  · rfl

theorem memAbove_read {m : Memory} {a x : Nat} (h : memAbove a m = true) (hx : x ≤ a) :
    memRead m x = unlistedByte := by
  induction m with
  | nil => rfl
  | cons c m ih =>
    obtain ⟨a', b⟩ := c
    simp only [memAbove, List.all_cons, Bool.and_eq_true, decide_eq_true_eq] at h
    have : x ≠ a' := by omega
    simp only [memRead, if_neg this]
    exact ih h.2

theorem memAbove_mono {m : Memory} {a x : Nat} (h : memAbove a m = true) (hx : x ≤ a) :
    memAbove x m = true := by
  simp only [memAbove, List.all_eq_true, decide_eq_true_eq] at h ⊢
  intro c hc
  have := h c hc
  omega

theorem memWf_cons {a : Nat} {b : Byte} {m : Memory} :
    memWf ((a, b) :: m) = true ↔
      a < 2 ^ 32 ∧ b ≠ unlistedByte ∧ memAbove a m = true ∧ memWf m = true := by
  simp [memWf, and_assoc]

/-- A byte reads as written, and no other byte changes. -/
theorem memRead_memWrite {m : Memory} (hm : memWf m = true) (a : Nat) (b : Byte) (x : Nat) :
    memRead (memWrite m a b) x = if x = a then b else memRead m x := by
  induction m with
  | nil =>
    rw [memWrite, memRead_memCons]
    exact .inr rfl
  | cons c m ih =>
    obtain ⟨a', b'⟩ := c
    obtain ⟨_, _, hab, hwf⟩ := memWf_cons.mp hm
    unfold memWrite
    split
    · rename_i h
      apply memRead_memCons
      right
      have : a ≠ a' := by omega
      simp only [memRead, if_neg this]
      exact memAbove_read hab (by omega)
    · split
      · rename_i h
        subst h
        rw [memRead_memCons _ _ _ _ (.inr (memAbove_read hab (le_refl _)))]
        simp only [memRead]
        split <;> rfl
      · rename_i h1 h2
        simp only [memRead]
        rw [ih hwf]
        by_cases hx : x = a'
        · subst hx
          have : x ≠ a := fun e => h2 e.symm
          simp [this]
        · simp [hx]

theorem memAbove_memCons {k a : Nat} {b : Byte} {m : Memory} (hk : k < a) (h : memAbove k m = true) :
    memAbove k (memCons a b m) = true := by
  unfold memCons
  split
  · exact h
  · simp only [memAbove, List.all_cons, Bool.and_eq_true, decide_eq_true_eq]
    exact ⟨hk, h⟩

theorem memAbove_memWrite {k a : Nat} {b : Byte} {m : Memory} (hk : k < a) (h : memAbove k m = true) :
    memAbove k (memWrite m a b) = true := by
  induction m with
  | nil => exact memAbove_memCons hk h
  | cons c m ih =>
    obtain ⟨a', b'⟩ := c
    have h' := h
    simp only [memAbove, List.all_cons, Bool.and_eq_true, decide_eq_true_eq] at h'
    unfold memWrite
    split
    · exact memAbove_memCons hk h
    · split
      · exact memAbove_memCons hk h'.2
      · have := ih h'.2
        simp only [memAbove, List.all_cons, Bool.and_eq_true, decide_eq_true_eq] at this ⊢
        exact ⟨h'.1, this⟩

/-- A write keeps the canonical form. -/
theorem memWf_memWrite {m : Memory} (hm : memWf m = true) {a : Nat} (ha : a < 2 ^ 32) (b : Byte) :
    memWf (memWrite m a b) = true := by
  have cons : ∀ {n : Memory}, memWf n = true → memAbove a n = true → memWf (memCons a b n) = true := by
    intro n hn hab
    unfold memCons
    split
    · exact hn
    · exact memWf_cons.mpr ⟨ha, ‹_›, hab, hn⟩
  induction m with
  | nil => exact cons rfl rfl
  | cons c m ih =>
    obtain ⟨a', b'⟩ := c
    obtain ⟨h1, h2, hab, hwf⟩ := memWf_cons.mp hm
    unfold memWrite
    split
    · rename_i h
      apply cons hm
      have := memAbove_mono hab (show a ≤ a' by omega)
      simp only [memAbove, List.all_cons, Bool.and_eq_true, decide_eq_true_eq] at this ⊢
      exact ⟨h, this⟩
    · split
      · rename_i h; subst h; exact cons hwf hab
      · exact memWf_cons.mpr ⟨h1, h2, memAbove_memWrite (by omega) hab, ih hwf⟩

end Sys2Proof.Machine
end

