-- ==== Sys2Proof/Laws/Ring.lean ====
section
/-! SUPPORT. Pointer arithmetic modulo a capacity (00_scope R11, 43 R241). -/

namespace Sys2Proof.Machine

/-- A mask is one below a power of two between 2 and 2^31. -/
theorem ringMask_eq (c : Params) (d : Dir) :
    ∃ k : Nat, k < 31 ∧ ringMask c d = 2 ^ (k + 1) - 1 ∧ cap c d = 2 ^ (k + 1) := by
  have hpos : ∀ k : Nat, 0 < 2 ^ (k + 1) := fun k => Nat.two_pow_pos _
  cases d
  · exact ⟨c.capTxLog, c.capTxLog.isLt, rfl, by have := hpos c.capTxLog; simp only [cap, ringMask, capMask]; omega⟩
  · exact ⟨c.capRxLog, c.capRxLog.isLt, rfl, by have := hpos c.capRxLog; simp only [cap, ringMask, capMask]; omega⟩

theorem cap_pos (c : Params) (d : Dir) : 0 < cap c d := Nat.succ_pos _

theorem two_le_cap (c : Params) (d : Dir) : 2 ≤ cap c d := by
  obtain ⟨k, _, _, h⟩ := ringMask_eq c d
  rw [h, pow_succ]
  have := Nat.two_pow_pos k
  omega

theorem cap_le (c : Params) (d : Dir) : cap c d ≤ 2 ^ 31 := by
  obtain ⟨k, hk, _, h⟩ := ringMask_eq c d
  rw [h]
  exact Nat.pow_le_pow_right (by omega) (by omega)

theorem ringMask_lt_cap (c : Params) (d : Dir) : ringMask c d < cap c d := Nat.lt_succ_self _

/-- `⊕` is addition modulo the capacity. -/
theorem ringAdd_eq_mod (c : Params) (d : Dir) (a b : Nat) :
    ringAdd (ringMask c d) a b = (a + b) % cap c d := by
  obtain ⟨k, _, hm, hc⟩ := ringMask_eq c d
  rw [ringAdd, hm, hc, Nat.and_two_pow_sub_one_eq_mod]

/-- `⊖` is subtraction modulo the capacity, on the integers (R11). -/
theorem ringSub_eq_emod (c : Params) (d : Dir) (a b : Nat) :
    ((ringSub (ringMask c d) a b : Nat) : Int) = ((a : Int) - b) % (cap c d : Int) := by
  obtain ⟨k, _, hm, hc⟩ := ringMask_eq c d
  have h1 : ringSub (ringMask c d) a b = (a + ringMask c d * b) % cap c d := by
    rw [ringSub, hc, hm, Nat.and_two_pow_sub_one_eq_mod]
  have h2 : ((a + ringMask c d * b : Nat) : Int) = ((a : Int) - b) + (cap c d : Int) * b := by
    simp only [cap]; push_cast; ring
  rw [h1, Int.natCast_mod, h2, Int.add_mul_emod_self_left]

theorem ringAdd_lt (c : Params) (d : Dir) (a b : Nat) : ringAdd (ringMask c d) a b < cap c d := by
  rw [ringAdd_eq_mod]; exact Nat.mod_lt _ (cap_pos c d)

theorem ringSub_lt (c : Params) (d : Dir) (a b : Nat) : ringSub (ringMask c d) a b < cap c d := by
  have h := ringSub_eq_emod c d a b
  have := Int.emod_lt_of_pos ((a : Int) - b) (by exact_mod_cast cap_pos c d : (0 : Int) < cap c d)
  omega

theorem ringSub_self (c : Params) (d : Dir) (a : Nat) : ringSub (ringMask c d) a a = 0 := by
  have h := ringSub_eq_emod c d a a
  simp at h
  exact h

theorem ringAdd_zero (c : Params) (d : Dir) {a : Nat} (h : a < cap c d) :
    ringAdd (ringMask c d) a 0 = a := by
  rw [ringAdd_eq_mod, Nat.add_zero, Nat.mod_eq_of_lt h]

/-- Between indices of the ring, `⊖` is the forward distance. -/
theorem ringSub_cases (c : Params) (d : Dir) {a b : Nat} (ha : a < cap c d) (hb : b < cap c d) :
    ringSub (ringMask c d) a b = if b ≤ a then a - b else a + cap c d - b := by
  have h := ringSub_eq_emod c d a b
  split
  · rw [Int.emod_eq_of_lt (by omega) (by omega)] at h; omega
  · rw [← Int.add_emod_right, Int.emod_eq_of_lt (by omega) (by omega)] at h; omega

/-- Advancing less than a whole turn. -/
theorem ringAdd_cases (c : Params) (d : Dir) {a b : Nat} (ha : a < cap c d) (hb : b < cap c d) :
    ringAdd (ringMask c d) a b = if a + b < cap c d then a + b else a + b - cap c d := by
  rw [ringAdd_eq_mod]
  split
  · rw [Nat.mod_eq_of_lt ‹_›]
  · rw [Nat.mod_eq_sub_mod (by omega), Nat.mod_eq_of_lt (by omega)]

/-- Going forward by the distance arrives. -/
theorem ringAdd_ringSub (c : Params) (d : Dir) {h t : Nat} (hh : h < cap c d) (ht : t < cap c d) :
    ringAdd (ringMask c d) t (ringSub (ringMask c d) h t) = h := by
  rw [ringAdd_cases c d ht (ringSub_lt ..), ringSub_cases c d hh ht]
  split <;> split <;> omega

theorem ringSub_eq_zero (c : Params) (d : Dir) {a b : Nat} (ha : a < cap c d) (hb : b < cap c d) :
    ringSub (ringMask c d) a b = 0 ↔ a = b := by
  rw [ringSub_cases c d ha hb]; split <;> omega

/-- An index below the capacity survives the trip through a register. -/
theorem toWord_toNat {k : Nat} (h : k < 2 ^ 31) : (toWord k).toNat = k := by
  simp only [toWord, BitVec.toNat_ofNat]
  omega

theorem toWord_toNat_of_lt_cap {c : Params} {d : Dir} {k : Nat} (h : k < cap c d) :
    (toWord k).toNat = k := toWord_toNat (Nat.lt_of_lt_of_le h (cap_le c d))

theorem toWord_of_toNat (v : Word) : toWord v.toNat = v := by simp [toWord]

end Sys2Proof.Machine
end

