-- ==== Sys2Proof/Laws/State.lean ====
section
/-! SUPPORT. One lemma per field per named update of State, so that no later proof unfolds a record
update. -/

namespace Sys2Proof.Machine

/-! ### `tabulate` and `perLane` -/

@[simp] theorem tabulate_get {α : Type} (f : Lane → α) (n : Lane) : (tabulate f)[n.val] = f n := by
  fin_cases n <;> rfl

@[simp] theorem perLane_get {α : Type} (x : α) (n : Lane) : (perLane x)[n.val] = x := by
  fin_cases n <;> rfl

@[simp] theorem lane_set_same {α : Type} (v : Vector α 32) (n : Lane) (x : α) :
    (v.set n.val x)[n.val] = x := by simp

theorem lane_set_other {α : Type} (v : Vector α 32) {n m : Lane} (x : α) (h : m ≠ n) :
    (v.set n.val x)[m.val] = v[m.val] := by
  rw [Vector.getElem_set_ne]
  exact fun e => h (Fin.ext e.symm)

theorem lane_set_get {α : Type} (v : Vector α 32) (n m : Lane) (x : α) :
    (v.set n.val x)[m.val] = if m = n then x else v[m.val] := by
  by_cases h : m = n
  · subst h; simp
  · rw [if_neg h, lane_set_other _ _ h]

/-- Two lane vectors are equal when every lane's entry is. -/
theorem lane_ext {α : Type} {v w : Vector α 32} (h : ∀ n : Lane, v[n.val] = w[n.val]) : v = w := by
  ext i hi
  exact h ⟨i, hi⟩

/-! ### A direction's registers -/

@[simp] theorem setHw_en (b : Bank) (n : Lane) (v : Word) : (b.setHw n v).en = b.en := rfl
@[simp] theorem setSw_en (b : Bank) (n : Lane) (v : Word) : (b.setSw n v).en = b.en := rfl
@[simp] theorem setBase_en (b : Bank) (n : Lane) (v : Word) : (b.setBase n v).en = b.en := rfl
@[simp] theorem setHw_rst (b : Bank) (n : Lane) (v : Word) : (b.setHw n v).rst = b.rst := rfl
@[simp] theorem setSw_rst (b : Bank) (n : Lane) (v : Word) : (b.setSw n v).rst = b.rst := rfl
@[simp] theorem setBase_rst (b : Bank) (n : Lane) (v : Word) : (b.setBase n v).rst = b.rst := rfl
@[simp] theorem setHw_ier (b : Bank) (n : Lane) (v : Word) : (b.setHw n v).ier = b.ier := rfl
@[simp] theorem setSw_ier (b : Bank) (n : Lane) (v : Word) : (b.setSw n v).ier = b.ier := rfl
@[simp] theorem setBase_ier (b : Bank) (n : Lane) (v : Word) : (b.setBase n v).ier = b.ier := rfl
@[simp] theorem setHw_isr (b : Bank) (n : Lane) (v : Word) : (b.setHw n v).isr = b.isr := rfl
@[simp] theorem setSw_isr (b : Bank) (n : Lane) (v : Word) : (b.setSw n v).isr = b.isr := rfl
@[simp] theorem setBase_isr (b : Bank) (n : Lane) (v : Word) : (b.setBase n v).isr = b.isr := rfl
@[simp] theorem setHw_hw (b : Bank) (n : Lane) (v : Word) : (b.setHw n v).hw = b.hw.set n.val v := rfl
@[simp] theorem setSw_hw (b : Bank) (n : Lane) (v : Word) : (b.setSw n v).hw = b.hw := rfl
@[simp] theorem setBase_hw (b : Bank) (n : Lane) (v : Word) : (b.setBase n v).hw = b.hw := rfl
@[simp] theorem setHw_sw (b : Bank) (n : Lane) (v : Word) : (b.setHw n v).sw = b.sw := rfl
@[simp] theorem setSw_sw (b : Bank) (n : Lane) (v : Word) : (b.setSw n v).sw = b.sw.set n.val v := rfl
@[simp] theorem setBase_sw (b : Bank) (n : Lane) (v : Word) : (b.setBase n v).sw = b.sw := rfl
@[simp] theorem setHw_base (b : Bank) (n : Lane) (v : Word) : (b.setHw n v).base = b.base := rfl
@[simp] theorem setSw_base (b : Bank) (n : Lane) (v : Word) : (b.setSw n v).base = b.base := rfl
@[simp] theorem setBase_base (b : Bank) (n : Lane) (v : Word) : (b.setBase n v).base = b.base.set n.val v := rfl
@[simp] theorem zeroPointers_en (b : Bank) (v : Word) : (b.zeroPointers v).en = b.en := rfl
@[simp] theorem zeroPointers_rst (b : Bank) (v : Word) : (b.zeroPointers v).rst = b.rst := rfl
@[simp] theorem zeroPointers_ier (b : Bank) (v : Word) : (b.zeroPointers v).ier = b.ier := rfl
@[simp] theorem zeroPointers_isr (b : Bank) (v : Word) : (b.zeroPointers v).isr = b.isr := rfl
@[simp] theorem zeroPointers_base (b : Bank) (v : Word) : (b.zeroPointers v).base = b.base := rfl

theorem zeroPointers_hw (b : Bank) (v : Word) (n : Lane) :
    (b.zeroPointers v).hw[n.val] = if testLane v n then 0 else b.hw[n.val] := by
  simp [Bank.zeroPointers]

theorem zeroPointers_sw (b : Bank) (v : Word) (n : Lane) :
    (b.zeroPointers v).sw[n.val] = if testLane v n then 0 else b.sw[n.val] := by
  simp [Bank.zeroPointers]

theorem clearMoved_get (m : Vector Bool 32) (v : Word) (n : Lane) :
    (clearMoved m v)[n.val] = if testLane v n then false else m[n.val] := by
  simp [clearMoved]

/-! ### Replacing a direction's registers or a channel-table entry -/

@[simp] theorem setBank_cfg (s : State) (d : Dir) (b : Bank) : (s.setBank d b).cfg = s.cfg := by cases d <;> rfl
@[simp] theorem setBank_bufSz (s : State) (d : Dir) (b : Bank) : (s.setBank d b).bufSz = s.bufSz := by cases d <;> rfl
@[simp] theorem setBank_rxTimeout (s : State) (d : Dir) (b : Bank) : (s.setBank d b).rxTimeout = s.rxTimeout := by cases d <;> rfl
@[simp] theorem setBank_txMoved (s : State) (d : Dir) (b : Bank) : (s.setBank d b).txMoved = s.txMoved := by cases d <;> rfl
@[simp] theorem setBank_attached (s : State) (d : Dir) (b : Bank) : (s.setBank d b).attached = s.attached := by cases d <;> rfl
@[simp] theorem setBank_txChan (s : State) (d : Dir) (b : Bank) : (s.setBank d b).txChan = s.txChan := by cases d <;> rfl
@[simp] theorem setBank_rxChan (s : State) (d : Dir) (b : Bank) : (s.setBank d b).rxChan = s.rxChan := by cases d <;> rfl
@[simp] theorem setBank_txBuf (s : State) (d : Dir) (b : Bank) : (s.setBank d b).txBuf = s.txBuf := by cases d <;> rfl
@[simp] theorem setBank_hist (s : State) (d : Dir) (b : Bank) : (s.setBank d b).hist = s.hist := by cases d <;> rfl
@[simp] theorem setBank_cur (s : State) (d : Dir) (b : Bank) : (s.setBank d b).cur = s.cur := by cases d <;> rfl
@[simp] theorem setBank_faulted (s : State) (d : Dir) (b : Bank) : (s.setBank d b).faulted = s.faulted := by cases d <;> rfl
@[simp] theorem setBank_refused (s : State) (d : Dir) (b : Bank) : (s.setBank d b).refused = s.refused := by cases d <;> rfl
@[simp] theorem setBank_mem (s : State) (d : Dir) (b : Bank) : (s.setBank d b).mem = s.mem := by cases d <;> rfl
@[simp] theorem setBank_inbox (s : State) (d : Dir) (b : Bank) : (s.setBank d b).inbox = s.inbox := by cases d <;> rfl
@[simp] theorem setBank_sched (s : State) (d : Dir) (b : Bank) : (s.setBank d b).sched = s.sched := by cases d <;> rfl
@[simp] theorem setBank_draws (s : State) (d : Dir) (b : Bank) : (s.setBank d b).draws = s.draws := by cases d <;> rfl
@[simp] theorem setBank_readData (s : State) (d : Dir) (b : Bank) : (s.setBank d b).readData = s.readData := by cases d <;> rfl
@[simp] theorem setBank_seen (s : State) (d : Dir) (b : Bank) : (s.setBank d b).seen = s.seen := by cases d <;> rfl
@[simp] theorem setBank_pace (s : State) (d : Dir) (b : Bank) : (s.setBank d b).pace = s.pace := by cases d <;> rfl
@[simp] theorem setChan_cfg (s : State) (d : Dir) (n : Lane) (c : Chan) : (s.setChan d n c).cfg = s.cfg := by cases d <;> rfl
@[simp] theorem setChan_tx (s : State) (d : Dir) (n : Lane) (c : Chan) : (s.setChan d n c).tx = s.tx := by cases d <;> rfl
@[simp] theorem setChan_rx (s : State) (d : Dir) (n : Lane) (c : Chan) : (s.setChan d n c).rx = s.rx := by cases d <;> rfl
@[simp] theorem setChan_bufSz (s : State) (d : Dir) (n : Lane) (c : Chan) : (s.setChan d n c).bufSz = s.bufSz := by cases d <;> rfl
@[simp] theorem setChan_rxTimeout (s : State) (d : Dir) (n : Lane) (c : Chan) : (s.setChan d n c).rxTimeout = s.rxTimeout := by cases d <;> rfl
@[simp] theorem setChan_txMoved (s : State) (d : Dir) (n : Lane) (c : Chan) : (s.setChan d n c).txMoved = s.txMoved := by cases d <;> rfl
@[simp] theorem setChan_attached (s : State) (d : Dir) (n : Lane) (c : Chan) : (s.setChan d n c).attached = s.attached := by cases d <;> rfl
@[simp] theorem setChan_txBuf (s : State) (d : Dir) (n : Lane) (c : Chan) : (s.setChan d n c).txBuf = s.txBuf := by cases d <;> rfl
@[simp] theorem setChan_hist (s : State) (d : Dir) (n : Lane) (c : Chan) : (s.setChan d n c).hist = s.hist := by cases d <;> rfl
@[simp] theorem setChan_cur (s : State) (d : Dir) (n : Lane) (c : Chan) : (s.setChan d n c).cur = s.cur := by cases d <;> rfl
@[simp] theorem setChan_faulted (s : State) (d : Dir) (n : Lane) (c : Chan) : (s.setChan d n c).faulted = s.faulted := by cases d <;> rfl
@[simp] theorem setChan_refused (s : State) (d : Dir) (n : Lane) (c : Chan) : (s.setChan d n c).refused = s.refused := by cases d <;> rfl
@[simp] theorem setChan_mem (s : State) (d : Dir) (n : Lane) (c : Chan) : (s.setChan d n c).mem = s.mem := by cases d <;> rfl
@[simp] theorem setChan_inbox (s : State) (d : Dir) (n : Lane) (c : Chan) : (s.setChan d n c).inbox = s.inbox := by cases d <;> rfl
@[simp] theorem setChan_sched (s : State) (d : Dir) (n : Lane) (c : Chan) : (s.setChan d n c).sched = s.sched := by cases d <;> rfl
@[simp] theorem setChan_draws (s : State) (d : Dir) (n : Lane) (c : Chan) : (s.setChan d n c).draws = s.draws := by cases d <;> rfl
@[simp] theorem setChan_readData (s : State) (d : Dir) (n : Lane) (c : Chan) : (s.setChan d n c).readData = s.readData := by cases d <;> rfl
@[simp] theorem setChan_seen (s : State) (d : Dir) (n : Lane) (c : Chan) : (s.setChan d n c).seen = s.seen := by cases d <;> rfl
@[simp] theorem setChan_pace (s : State) (d : Dir) (n : Lane) (c : Chan) : (s.setChan d n c).pace = s.pace := by cases d <;> rfl

@[simp] theorem setBank_bank (s : State) (d : Dir) (b : Bank) : (s.setBank d b).bank d = b := by
  cases d <;> rfl

theorem setBank_bank_other (s : State) {d e : Dir} (b : Bank) (h : e ≠ d) :
    (s.setBank d b).bank e = s.bank e := by
  cases d <;> cases e <;> first | rfl | exact absurd rfl h

@[simp] theorem setBank_chan (s : State) (d e : Dir) (b : Bank) (n : Lane) :
    (s.setBank d b).chan e n = s.chan e n := by cases d <;> cases e <;> rfl

@[simp] theorem setBank_buf (s : State) (d e : Dir) (b : Bank) (n : Lane) :
    (s.setBank d b).buf e n = s.buf e n := by cases d <;> cases e <;> rfl

@[simp] theorem setChan_bank (s : State) (d e : Dir) (n : Lane) (c : Chan) :
    (s.setChan d n c).bank e = s.bank e := by cases d <;> cases e <;> rfl

@[simp] theorem setChan_buf (s : State) (d e : Dir) (n m : Lane) (c : Chan) :
    (s.setChan d n c).buf e m = s.buf e m := by cases d <;> cases e <;> rfl

theorem setChan_chan (s : State) (d e : Dir) (n m : Lane) (c : Chan) :
    (s.setChan d n c).chan e m = if e = d ∧ m = n then c else s.chan e m := by
  cases d <;> cases e <;> simp [State.setChan, State.chan, lane_set_get]

@[simp] theorem setChan_chan_same (s : State) (d : Dir) (n : Lane) (c : Chan) :
    (s.setChan d n c).chan d n = c := by simp [setChan_chan]

/-! ### The other named updates -/

@[simp] theorem log_cfg (s : State) (e : Event) : (s.log e).cfg = s.cfg := rfl
@[simp] theorem log_tx (s : State) (e : Event) : (s.log e).tx = s.tx := rfl
@[simp] theorem log_rx (s : State) (e : Event) : (s.log e).rx = s.rx := rfl
@[simp] theorem log_bufSz (s : State) (e : Event) : (s.log e).bufSz = s.bufSz := rfl
@[simp] theorem log_rxTimeout (s : State) (e : Event) : (s.log e).rxTimeout = s.rxTimeout := rfl
@[simp] theorem log_txMoved (s : State) (e : Event) : (s.log e).txMoved = s.txMoved := rfl
@[simp] theorem log_attached (s : State) (e : Event) : (s.log e).attached = s.attached := rfl
@[simp] theorem log_txChan (s : State) (e : Event) : (s.log e).txChan = s.txChan := rfl
@[simp] theorem log_rxChan (s : State) (e : Event) : (s.log e).rxChan = s.rxChan := rfl
@[simp] theorem log_txBuf (s : State) (e : Event) : (s.log e).txBuf = s.txBuf := rfl
@[simp] theorem log_hist (s : State) (e : Event) : (s.log e).hist = s.hist ++ [e] := rfl
@[simp] theorem log_cur (s : State) (e : Event) : (s.log e).cur = s.cur := rfl
@[simp] theorem log_faulted (s : State) (e : Event) : (s.log e).faulted = s.faulted := rfl
@[simp] theorem log_refused (s : State) (e : Event) : (s.log e).refused = s.refused := rfl
@[simp] theorem log_mem (s : State) (e : Event) : (s.log e).mem = s.mem := rfl
@[simp] theorem log_inbox (s : State) (e : Event) : (s.log e).inbox = s.inbox := rfl
@[simp] theorem log_sched (s : State) (e : Event) : (s.log e).sched = s.sched := rfl
@[simp] theorem log_draws (s : State) (e : Event) : (s.log e).draws = s.draws := rfl
@[simp] theorem log_readData (s : State) (e : Event) : (s.log e).readData = s.readData := rfl
@[simp] theorem log_seen (s : State) (e : Event) : (s.log e).seen = s.seen := rfl
@[simp] theorem log_pace (s : State) (e : Event) : (s.log e).pace = s.pace := rfl
@[simp] theorem log_bank (s : State) (e : Event) (d : Dir) : (s.log e).bank d = s.bank d := by cases d <;> rfl
@[simp] theorem log_chan (s : State) (e : Event) (d : Dir) (n : Lane) : (s.log e).chan d n = s.chan d n := by cases d <;> rfl
@[simp] theorem log_buf (s : State) (e : Event) (d : Dir) (n : Lane) : (s.log e).buf d n = s.buf d n := by cases d <;> rfl

@[simp] theorem advanceCur_cfg (s : State) : (advanceCur s).cfg = s.cfg := rfl
@[simp] theorem advanceCur_tx (s : State) : (advanceCur s).tx = s.tx := rfl
@[simp] theorem advanceCur_rx (s : State) : (advanceCur s).rx = s.rx := rfl
@[simp] theorem advanceCur_bufSz (s : State) : (advanceCur s).bufSz = s.bufSz := rfl
@[simp] theorem advanceCur_rxTimeout (s : State) : (advanceCur s).rxTimeout = s.rxTimeout := rfl
@[simp] theorem advanceCur_txMoved (s : State) : (advanceCur s).txMoved = s.txMoved := rfl
@[simp] theorem advanceCur_attached (s : State) : (advanceCur s).attached = s.attached := rfl
@[simp] theorem advanceCur_txChan (s : State) : (advanceCur s).txChan = s.txChan := rfl
@[simp] theorem advanceCur_rxChan (s : State) : (advanceCur s).rxChan = s.rxChan := rfl
@[simp] theorem advanceCur_txBuf (s : State) : (advanceCur s).txBuf = s.txBuf := rfl
@[simp] theorem advanceCur_hist (s : State) : (advanceCur s).hist = s.hist := rfl
@[simp] theorem advanceCur_cur (s : State) : (advanceCur s).cur = s.cur.map fun c => (c.1, c.2 + 1) := rfl
@[simp] theorem advanceCur_faulted (s : State) : (advanceCur s).faulted = s.faulted := rfl
@[simp] theorem advanceCur_refused (s : State) : (advanceCur s).refused = s.refused := rfl
@[simp] theorem advanceCur_mem (s : State) : (advanceCur s).mem = s.mem := rfl
@[simp] theorem advanceCur_inbox (s : State) : (advanceCur s).inbox = s.inbox := rfl
@[simp] theorem advanceCur_sched (s : State) : (advanceCur s).sched = s.sched := rfl
@[simp] theorem advanceCur_draws (s : State) : (advanceCur s).draws = s.draws := rfl
@[simp] theorem advanceCur_readData (s : State) : (advanceCur s).readData = s.readData := rfl
@[simp] theorem advanceCur_seen (s : State) : (advanceCur s).seen = s.seen := rfl
@[simp] theorem advanceCur_pace (s : State) : (advanceCur s).pace = s.pace := rfl
@[simp] theorem advanceCur_bank (s : State) (d : Dir) : (advanceCur s).bank d = s.bank d := by cases d <;> rfl
@[simp] theorem advanceCur_chan (s : State) (d : Dir) (n : Lane) : (advanceCur s).chan d n = s.chan d n := by cases d <;> rfl
@[simp] theorem advanceCur_buf (s : State) (d : Dir) (n : Lane) : (advanceCur s).buf d n = s.buf d n := by cases d <;> rfl

@[simp] theorem dropReserved_cfg (s : State) : (dropReserved s).cfg = s.cfg := rfl
@[simp] theorem dropReserved_tx (s : State) : (dropReserved s).tx = s.tx := rfl
@[simp] theorem dropReserved_rx (s : State) : (dropReserved s).rx = s.rx := rfl
@[simp] theorem dropReserved_bufSz (s : State) : (dropReserved s).bufSz = s.bufSz := rfl
@[simp] theorem dropReserved_rxTimeout (s : State) : (dropReserved s).rxTimeout = s.rxTimeout := rfl
@[simp] theorem dropReserved_txMoved (s : State) : (dropReserved s).txMoved = s.txMoved := rfl
@[simp] theorem dropReserved_attached (s : State) : (dropReserved s).attached = s.attached := rfl
@[simp] theorem dropReserved_txChan (s : State) : (dropReserved s).txChan = s.txChan := rfl
@[simp] theorem dropReserved_rxChan (s : State) : (dropReserved s).rxChan = s.rxChan := rfl
@[simp] theorem dropReserved_txBuf (s : State) : (dropReserved s).txBuf = s.txBuf := rfl
@[simp] theorem dropReserved_hist (s : State) : (dropReserved s).hist = s.hist := rfl
@[simp] theorem dropReserved_cur (s : State) : (dropReserved s).cur = s.cur := rfl
@[simp] theorem dropReserved_faulted (s : State) : (dropReserved s).faulted = s.faulted := rfl
@[simp] theorem dropReserved_refused (s : State) : (dropReserved s).refused = s.refused := rfl
@[simp] theorem dropReserved_mem (s : State) : (dropReserved s).mem = s.mem := rfl
@[simp] theorem dropReserved_inbox (s : State) : (dropReserved s).inbox = s.inbox := rfl
@[simp] theorem dropReserved_sched (s : State) : (dropReserved s).sched = s.sched := rfl
@[simp] theorem dropReserved_draws (s : State) : (dropReserved s).draws = { s.draws with reserved := s.draws.reserved.tail, count := s.draws.count + 1 } := rfl
@[simp] theorem dropReserved_readData (s : State) : (dropReserved s).readData = s.readData := rfl
@[simp] theorem dropReserved_seen (s : State) : (dropReserved s).seen = s.seen := rfl
@[simp] theorem dropReserved_pace (s : State) : (dropReserved s).pace = s.pace := rfl
@[simp] theorem dropReserved_bank (s : State) (d : Dir) : (dropReserved s).bank d = s.bank d := by cases d <;> rfl
@[simp] theorem dropReserved_chan (s : State) (d : Dir) (n : Lane) : (dropReserved s).chan d n = s.chan d n := by cases d <;> rfl
@[simp] theorem dropReserved_buf (s : State) (d : Dir) (n : Lane) : (dropReserved s).buf d n = s.buf d n := by cases d <;> rfl

@[simp] theorem dropAccepted_cfg (s : State) : (dropAccepted s).cfg = s.cfg := rfl
@[simp] theorem dropAccepted_tx (s : State) : (dropAccepted s).tx = s.tx := rfl
@[simp] theorem dropAccepted_rx (s : State) : (dropAccepted s).rx = s.rx := rfl
@[simp] theorem dropAccepted_bufSz (s : State) : (dropAccepted s).bufSz = s.bufSz := rfl
@[simp] theorem dropAccepted_rxTimeout (s : State) : (dropAccepted s).rxTimeout = s.rxTimeout := rfl
@[simp] theorem dropAccepted_txMoved (s : State) : (dropAccepted s).txMoved = s.txMoved := rfl
@[simp] theorem dropAccepted_attached (s : State) : (dropAccepted s).attached = s.attached := rfl
@[simp] theorem dropAccepted_txChan (s : State) : (dropAccepted s).txChan = s.txChan := rfl
@[simp] theorem dropAccepted_rxChan (s : State) : (dropAccepted s).rxChan = s.rxChan := rfl
@[simp] theorem dropAccepted_txBuf (s : State) : (dropAccepted s).txBuf = s.txBuf := rfl
@[simp] theorem dropAccepted_hist (s : State) : (dropAccepted s).hist = s.hist := rfl
@[simp] theorem dropAccepted_cur (s : State) : (dropAccepted s).cur = s.cur := rfl
@[simp] theorem dropAccepted_faulted (s : State) : (dropAccepted s).faulted = s.faulted := rfl
@[simp] theorem dropAccepted_refused (s : State) : (dropAccepted s).refused = s.refused := rfl
@[simp] theorem dropAccepted_mem (s : State) : (dropAccepted s).mem = s.mem := rfl
@[simp] theorem dropAccepted_inbox (s : State) : (dropAccepted s).inbox = s.inbox := rfl
@[simp] theorem dropAccepted_sched (s : State) : (dropAccepted s).sched = s.sched := rfl
@[simp] theorem dropAccepted_draws (s : State) : (dropAccepted s).draws = { s.draws with accepted := s.draws.accepted.tail, count := s.draws.count + 1 } := rfl
@[simp] theorem dropAccepted_readData (s : State) : (dropAccepted s).readData = s.readData := rfl
@[simp] theorem dropAccepted_seen (s : State) : (dropAccepted s).seen = s.seen := rfl
@[simp] theorem dropAccepted_pace (s : State) : (dropAccepted s).pace = s.pace := rfl
@[simp] theorem dropAccepted_bank (s : State) (d : Dir) : (dropAccepted s).bank d = s.bank d := by cases d <;> rfl
@[simp] theorem dropAccepted_chan (s : State) (d : Dir) (n : Lane) : (dropAccepted s).chan d n = s.chan d n := by cases d <;> rfl
@[simp] theorem dropAccepted_buf (s : State) (d : Dir) (n : Lane) : (dropAccepted s).buf d n = s.buf d n := by cases d <;> rfl

@[simp] theorem dropStream_cfg (s : State) : (dropStream s).cfg = s.cfg := rfl
@[simp] theorem dropStream_tx (s : State) : (dropStream s).tx = s.tx := rfl
@[simp] theorem dropStream_rx (s : State) : (dropStream s).rx = s.rx := rfl
@[simp] theorem dropStream_bufSz (s : State) : (dropStream s).bufSz = s.bufSz := rfl
@[simp] theorem dropStream_rxTimeout (s : State) : (dropStream s).rxTimeout = s.rxTimeout := rfl
@[simp] theorem dropStream_txMoved (s : State) : (dropStream s).txMoved = s.txMoved := rfl
@[simp] theorem dropStream_attached (s : State) : (dropStream s).attached = s.attached := rfl
@[simp] theorem dropStream_txChan (s : State) : (dropStream s).txChan = s.txChan := rfl
@[simp] theorem dropStream_rxChan (s : State) : (dropStream s).rxChan = s.rxChan := rfl
@[simp] theorem dropStream_txBuf (s : State) : (dropStream s).txBuf = s.txBuf := rfl
@[simp] theorem dropStream_hist (s : State) : (dropStream s).hist = s.hist := rfl
@[simp] theorem dropStream_cur (s : State) : (dropStream s).cur = s.cur := rfl
@[simp] theorem dropStream_faulted (s : State) : (dropStream s).faulted = s.faulted := rfl
@[simp] theorem dropStream_refused (s : State) : (dropStream s).refused = s.refused := rfl
@[simp] theorem dropStream_mem (s : State) : (dropStream s).mem = s.mem := rfl
@[simp] theorem dropStream_inbox (s : State) : (dropStream s).inbox = s.inbox := rfl
@[simp] theorem dropStream_sched (s : State) : (dropStream s).sched = s.sched := rfl
@[simp] theorem dropStream_draws (s : State) : (dropStream s).draws = { s.draws with stream := s.draws.stream.tail, count := s.draws.count + 1 } := rfl
@[simp] theorem dropStream_readData (s : State) : (dropStream s).readData = s.readData := rfl
@[simp] theorem dropStream_seen (s : State) : (dropStream s).seen = s.seen := rfl
@[simp] theorem dropStream_pace (s : State) : (dropStream s).pace = s.pace := rfl
@[simp] theorem dropStream_bank (s : State) (d : Dir) : (dropStream s).bank d = s.bank d := by cases d <;> rfl
@[simp] theorem dropStream_chan (s : State) (d : Dir) (n : Lane) : (dropStream s).chan d n = s.chan d n := by cases d <;> rfl
@[simp] theorem dropStream_buf (s : State) (d : Dir) (n : Lane) : (dropStream s).buf d n = s.buf d n := by cases d <;> rfl

@[simp] theorem beginCommand_cfg (i : Instr) (s : State) : (beginCommand i s).cfg = s.cfg := rfl
@[simp] theorem beginCommand_tx (i : Instr) (s : State) : (beginCommand i s).tx = s.tx := rfl
@[simp] theorem beginCommand_rx (i : Instr) (s : State) : (beginCommand i s).rx = s.rx := rfl
@[simp] theorem beginCommand_bufSz (i : Instr) (s : State) : (beginCommand i s).bufSz = s.bufSz := rfl
@[simp] theorem beginCommand_rxTimeout (i : Instr) (s : State) : (beginCommand i s).rxTimeout = s.rxTimeout := rfl
@[simp] theorem beginCommand_txMoved (i : Instr) (s : State) : (beginCommand i s).txMoved = s.txMoved := rfl
@[simp] theorem beginCommand_attached (i : Instr) (s : State) : (beginCommand i s).attached = s.attached := rfl
@[simp] theorem beginCommand_txChan (i : Instr) (s : State) : (beginCommand i s).txChan = s.txChan := rfl
@[simp] theorem beginCommand_rxChan (i : Instr) (s : State) : (beginCommand i s).rxChan = s.rxChan := rfl
@[simp] theorem beginCommand_txBuf (i : Instr) (s : State) : (beginCommand i s).txBuf = s.txBuf := rfl
@[simp] theorem beginCommand_hist (i : Instr) (s : State) : (beginCommand i s).hist = s.hist := rfl
@[simp] theorem beginCommand_cur (i : Instr) (s : State) : (beginCommand i s).cur = some (i, 0) := rfl
@[simp] theorem beginCommand_faulted (i : Instr) (s : State) : (beginCommand i s).faulted = s.faulted := rfl
@[simp] theorem beginCommand_refused (i : Instr) (s : State) : (beginCommand i s).refused = s.refused := rfl
@[simp] theorem beginCommand_mem (i : Instr) (s : State) : (beginCommand i s).mem = s.mem := rfl
@[simp] theorem beginCommand_inbox (i : Instr) (s : State) : (beginCommand i s).inbox = s.inbox := rfl
@[simp] theorem beginCommand_sched (i : Instr) (s : State) : (beginCommand i s).sched = s.sched := rfl
@[simp] theorem beginCommand_draws (i : Instr) (s : State) : (beginCommand i s).draws = s.draws := rfl
@[simp] theorem beginCommand_readData (i : Instr) (s : State) : (beginCommand i s).readData = s.readData := rfl
@[simp] theorem beginCommand_seen (i : Instr) (s : State) : (beginCommand i s).seen = [] := rfl
@[simp] theorem beginCommand_pace (i : Instr) (s : State) : (beginCommand i s).pace = s.pace := rfl
@[simp] theorem beginCommand_bank (i : Instr) (s : State) (d : Dir) : (beginCommand i s).bank d = s.bank d := by cases d <;> rfl
@[simp] theorem beginCommand_chan (i : Instr) (s : State) (d : Dir) (n : Lane) : (beginCommand i s).chan d n = s.chan d n := by cases d <;> rfl
@[simp] theorem beginCommand_buf (i : Instr) (s : State) (d : Dir) (n : Lane) : (beginCommand i s).buf d n = s.buf d n := by cases d <;> rfl

@[simp] theorem endCommand_cfg (i : Instr) (r : Ret) (s : State) : (endCommand i r s).cfg = s.cfg := rfl
@[simp] theorem endCommand_tx (i : Instr) (r : Ret) (s : State) : (endCommand i r s).tx = s.tx := rfl
@[simp] theorem endCommand_rx (i : Instr) (r : Ret) (s : State) : (endCommand i r s).rx = s.rx := rfl
@[simp] theorem endCommand_bufSz (i : Instr) (r : Ret) (s : State) : (endCommand i r s).bufSz = s.bufSz := rfl
@[simp] theorem endCommand_rxTimeout (i : Instr) (r : Ret) (s : State) : (endCommand i r s).rxTimeout = s.rxTimeout := rfl
@[simp] theorem endCommand_txMoved (i : Instr) (r : Ret) (s : State) : (endCommand i r s).txMoved = s.txMoved := rfl
@[simp] theorem endCommand_attached (i : Instr) (r : Ret) (s : State) : (endCommand i r s).attached = s.attached := rfl
@[simp] theorem endCommand_txChan (i : Instr) (r : Ret) (s : State) : (endCommand i r s).txChan = s.txChan := rfl
@[simp] theorem endCommand_rxChan (i : Instr) (r : Ret) (s : State) : (endCommand i r s).rxChan = s.rxChan := rfl
@[simp] theorem endCommand_txBuf (i : Instr) (r : Ret) (s : State) : (endCommand i r s).txBuf = s.txBuf := rfl
@[simp] theorem endCommand_hist (i : Instr) (r : Ret) (s : State) : (endCommand i r s).hist = s.hist ++ [.result i r.code r.value] := rfl
@[simp] theorem endCommand_cur (i : Instr) (r : Ret) (s : State) : (endCommand i r s).cur = none := rfl
@[simp] theorem endCommand_faulted (i : Instr) (r : Ret) (s : State) : (endCommand i r s).faulted = s.faulted := rfl
@[simp] theorem endCommand_refused (i : Instr) (r : Ret) (s : State) : (endCommand i r s).refused = s.refused := rfl
@[simp] theorem endCommand_mem (i : Instr) (r : Ret) (s : State) : (endCommand i r s).mem = s.mem := rfl
@[simp] theorem endCommand_inbox (i : Instr) (r : Ret) (s : State) : (endCommand i r s).inbox = s.inbox := rfl
@[simp] theorem endCommand_sched (i : Instr) (r : Ret) (s : State) : (endCommand i r s).sched = s.sched := rfl
@[simp] theorem endCommand_draws (i : Instr) (r : Ret) (s : State) : (endCommand i r s).draws = s.draws := rfl
@[simp] theorem endCommand_readData (i : Instr) (r : Ret) (s : State) : (endCommand i r s).readData = s.readData := rfl
@[simp] theorem endCommand_seen (i : Instr) (r : Ret) (s : State) : (endCommand i r s).seen = [] := rfl
@[simp] theorem endCommand_pace (i : Instr) (r : Ret) (s : State) : (endCommand i r s).pace = s.pace := rfl
@[simp] theorem endCommand_bank (i : Instr) (r : Ret) (s : State) (d : Dir) : (endCommand i r s).bank d = s.bank d := by cases d <;> rfl
@[simp] theorem endCommand_chan (i : Instr) (r : Ret) (s : State) (d : Dir) (n : Lane) : (endCommand i r s).chan d n = s.chan d n := by cases d <;> rfl
@[simp] theorem endCommand_buf (i : Instr) (r : Ret) (s : State) (d : Dir) (n : Lane) : (endCommand i r s).buf d n = s.buf d n := by cases d <;> rfl

@[simp] theorem assertReset_cfg (s : State) (d : Dir) (v : Word) : (assertReset s d v).cfg = s.cfg := by cases d <;> rfl
@[simp] theorem assertReset_bufSz (s : State) (d : Dir) (v : Word) : (assertReset s d v).bufSz = s.bufSz := by cases d <;> rfl
@[simp] theorem assertReset_rxTimeout (s : State) (d : Dir) (v : Word) : (assertReset s d v).rxTimeout = s.rxTimeout := by cases d <;> rfl
@[simp] theorem assertReset_attached (s : State) (d : Dir) (v : Word) : (assertReset s d v).attached = s.attached := by cases d <;> rfl
@[simp] theorem assertReset_txChan (s : State) (d : Dir) (v : Word) : (assertReset s d v).txChan = s.txChan := by cases d <;> rfl
@[simp] theorem assertReset_rxChan (s : State) (d : Dir) (v : Word) : (assertReset s d v).rxChan = s.rxChan := by cases d <;> rfl
@[simp] theorem assertReset_txBuf (s : State) (d : Dir) (v : Word) : (assertReset s d v).txBuf = s.txBuf := by cases d <;> rfl
@[simp] theorem assertReset_hist (s : State) (d : Dir) (v : Word) : (assertReset s d v).hist = s.hist := by cases d <;> rfl
@[simp] theorem assertReset_cur (s : State) (d : Dir) (v : Word) : (assertReset s d v).cur = s.cur := by cases d <;> rfl
@[simp] theorem assertReset_faulted (s : State) (d : Dir) (v : Word) : (assertReset s d v).faulted = s.faulted := by cases d <;> rfl
@[simp] theorem assertReset_refused (s : State) (d : Dir) (v : Word) : (assertReset s d v).refused = s.refused := by cases d <;> rfl
@[simp] theorem assertReset_mem (s : State) (d : Dir) (v : Word) : (assertReset s d v).mem = s.mem := by cases d <;> rfl
@[simp] theorem assertReset_inbox (s : State) (d : Dir) (v : Word) : (assertReset s d v).inbox = s.inbox := by cases d <;> rfl
@[simp] theorem assertReset_sched (s : State) (d : Dir) (v : Word) : (assertReset s d v).sched = s.sched := by cases d <;> rfl
@[simp] theorem assertReset_draws (s : State) (d : Dir) (v : Word) : (assertReset s d v).draws = s.draws := by cases d <;> rfl
@[simp] theorem assertReset_readData (s : State) (d : Dir) (v : Word) : (assertReset s d v).readData = s.readData := by cases d <;> rfl
@[simp] theorem assertReset_seen (s : State) (d : Dir) (v : Word) : (assertReset s d v).seen = s.seen := by cases d <;> rfl
@[simp] theorem assertReset_pace (s : State) (d : Dir) (v : Word) : (assertReset s d v).pace = s.pace := by cases d <;> rfl
@[simp] theorem assertReset_bank (s : State) (d : Dir) (v : Word) :
    (assertReset s d v).bank d = { (s.bank d).zeroPointers v with rst := v } := by cases d <;> rfl

theorem assertReset_bank_other (s : State) {d e : Dir} (v : Word) (h : e ≠ d) :
    (assertReset s d v).bank e = s.bank e := by
  cases d <;> cases e <;> first | rfl | exact absurd rfl h

@[simp] theorem assertReset_chan (s : State) (d e : Dir) (v : Word) (n : Lane) :
    (assertReset s d v).chan e n = s.chan e n := by cases d <;> cases e <;> rfl

@[simp] theorem assertReset_buf (s : State) (d e : Dir) (v : Word) (n : Lane) :
    (assertReset s d v).buf e n = s.buf e n := by cases d <;> cases e <;> rfl

end Sys2Proof.Machine
end

