-- ==== Sys2Proof/Laws/Lanes.lean ====
section
/-! SUPPORT. Everything the lane agents can do to a state (41_engine R160 to R176), said once. -/

namespace Sys2Proof.Machine

/-- What any number of lane-agent steps leaves as it was, and what it can only add. -/
structure LaneFrame (s t : State) : Prop where
  cfg : t.cfg = s.cfg
  bufSz : t.bufSz = s.bufSz
  rxTimeout : t.rxTimeout = s.rxTimeout
  attached : t.attached = s.attached
  txChan : t.txChan = s.txChan
  rxChan : t.rxChan = s.rxChan
  txBuf : t.txBuf = s.txBuf
  faulted : t.faulted = s.faulted
  refused : t.refused = s.refused
  inbox : t.inbox = s.inbox
  draws : t.draws = s.draws
  readData : t.readData = s.readData
  cur : t.cur = s.cur
  seen : t.seen = s.seen
  pace : t.pace = s.pace
  en : ∀ d, (t.bank d).en = (s.bank d).en
  rst : ∀ d, (t.bank d).rst = (s.bank d).rst
  ier : ∀ d, (t.bank d).ier = (s.bank d).ier
  sw : ∀ d, (t.bank d).sw = (s.bank d).sw
  base : ∀ d, (t.bank d).base = (s.bank d).base
  /-- status bits are only set (R160, R170) -/
  isr : ∀ d n, testLane (s.bank d).isr n = true → testLane (t.bank d).isr n = true
  /-- of an inactive lane they are not set either (R161) -/
  isrInactive : ∀ d (n : Lane), laneActive s d n = false →
    testLane (t.bank d).isr n = testLane (s.bank d).isr n
  /-- the history is only appended to, and only line bytes (R45, R160) -/
  hist : ∃ es, t.hist = s.hist ++ es ∧ es.filter Event.isOwn = []
  /-- the canonical form is kept -/
  mem : Memory.wf s.mem → Memory.wf t.mem
  /-- an inactive lane keeps its hardware pointer (R161) -/
  hwInactive : s.cfg.hwMayCorrupt = false → ∀ d (n : Lane), laneActive s d n = false →
    (t.bank d).hw[n.val] = (s.bank d).hw[n.val]
  /-- a lane in reset keeps it whatever the hardware does (R32, R36) -/
  hwInReset : ∀ d (n : Lane), laneInReset s d n = true → (t.bank d).hw[n.val] = (s.bank d).hw[n.val]
  /-- the pointers stay in range (R162, R164) -/
  hwInRange : s.cfg.hwMayCorrupt = false → ∀ d (n : Lane), (s.bank d).hw[n.val].toNat < cap s.cfg d →
    (t.bank d).hw[n.val].toNat < cap s.cfg d

theorem LaneFrame.refl (s : State) : LaneFrame s s := by
  constructor <;> first | (intros; rfl) | (intros; assumption) | rfl | skip
  exact ⟨[], by simp, rfl⟩

theorem LaneFrame.active {s t : State} (h : LaneFrame s t) (d : Dir) (n : Lane) :
    laneActive t d n = laneActive s d n := by simp [laneActive, h.cfg, h.en, h.rst]

theorem LaneFrame.inReset {s t : State} (h : LaneFrame s t) (d : Dir) (n : Lane) :
    laneInReset t d n = laneInReset s d n := by simp [laneInReset, h.rst]

theorem LaneFrame.trans {s t u : State} (h : LaneFrame s t) (k : LaneFrame t u) : LaneFrame s u where
  cfg := k.cfg.trans h.cfg
  bufSz := k.bufSz.trans h.bufSz
  rxTimeout := k.rxTimeout.trans h.rxTimeout
  attached := k.attached.trans h.attached
  txChan := k.txChan.trans h.txChan
  rxChan := k.rxChan.trans h.rxChan
  txBuf := k.txBuf.trans h.txBuf
  faulted := k.faulted.trans h.faulted
  refused := k.refused.trans h.refused
  inbox := k.inbox.trans h.inbox
  draws := k.draws.trans h.draws
  readData := k.readData.trans h.readData
  cur := k.cur.trans h.cur
  seen := k.seen.trans h.seen
  pace := k.pace.trans h.pace
  en d := (k.en d).trans (h.en d)
  rst d := (k.rst d).trans (h.rst d)
  ier d := (k.ier d).trans (h.ier d)
  sw d := (k.sw d).trans (h.sw d)
  base d := (k.base d).trans (h.base d)
  isr d n e := k.isr d n (h.isr d n e)
  isrInactive d n e := (k.isrInactive d n (by rw [h.active]; exact e)).trans (h.isrInactive d n e)
  hist := by
    obtain ⟨a, ha, hao⟩ := h.hist
    obtain ⟨b, hb, hbo⟩ := k.hist
    exact ⟨a ++ b, by rw [hb, ha, List.append_assoc], by rw [List.filter_append, hao, hbo]; rfl⟩
  mem w := k.mem (h.mem w)
  hwInactive hc d n e :=
    (k.hwInactive (by rw [h.cfg]; exact hc) d n (by rw [h.active]; exact e)).trans (h.hwInactive hc d n e)
  hwInReset d n e := (k.hwInReset d n (by rw [h.inReset]; exact e)).trans (h.hwInReset d n e)
  hwInRange hc d n e := by
    have := k.hwInRange (by rw [h.cfg]; exact hc) d n (by rw [h.cfg]; exact h.hwInRange hc d n e)
    rwa [h.cfg] at this

theorem rxByteStep_frame (s : State) (n : Lane) (b : Byte) : LaneFrame s (rxByteStep s n b) := by
  unfold rxByteStep
  split
  · rename_i he
    simp only [rxByteEnabled, Bool.and_eq_true, decide_eq_true_eq] at he
    obtain ⟨⟨⟨hact, hlt⟩, _⟩, haddr⟩ := he
    have hrst : laneInReset s .rx n = false := by
      simp only [laneActive, Bool.and_eq_true, Bool.not_eq_true'] at hact; exact hact.2
    constructor <;> first | rfl | (intro d; cases d <;> rfl) | skip
    · intro d m h; cases d <;> exact h
    · intro d m _; cases d <;> rfl
    · exact ⟨[.lineRx n b], rfl, rfl⟩
    · intro hm; exact memWf_memWrite hm haddr _
    · intro _ d m hin
      cases d
      · rfl
      · simp only [State.bank, setHw_hw]
        apply lane_set_other
        rintro rfl
        rw [hact] at hin; cases hin
    · intro d m hin
      cases d
      · rfl
      · simp only [State.bank, setHw_hw]
        apply lane_set_other
        rintro rfl
        rw [hrst] at hin; cases hin
    · intro _ d m hin
      cases d
      · exact hin
      · simp only [State.bank, setHw_hw, lane_set_get]
        split
        · rw [toWord_toNat_of_lt_cap (ringAdd_lt s.cfg .rx _ _)]; exact ringAdd_lt s.cfg .rx _ _
        · exact hin
  · exact LaneFrame.refl s

theorem txByteStep_frame (s : State) (n : Lane) : LaneFrame s (txByteStep s n) := by
  unfold txByteStep
  split
  · rename_i he
    simp only [txByteEnabled, Bool.and_eq_true, decide_eq_true_eq] at he
    obtain ⟨⟨⟨⟨hact, _⟩, _⟩, _⟩, _⟩ := he
    have hrst : laneInReset s .tx n = false := by
      simp only [laneActive, Bool.and_eq_true, Bool.not_eq_true'] at hact; exact hact.2
    constructor <;> first | rfl | (intro d; cases d <;> rfl) | (intro h; exact h) | skip
    · intro d m h; cases d <;> exact h
    · intro d m _; cases d <;> rfl
    · exact ⟨_, rfl, rfl⟩
    · intro _ d m hin
      cases d
      · simp only [State.bank, setHw_hw]
        apply lane_set_other
        rintro rfl
        rw [hact] at hin; cases hin
      · rfl
    · intro d m hin
      cases d
      · simp only [State.bank, setHw_hw]
        apply lane_set_other
        rintro rfl
        rw [hrst] at hin; cases hin
      · rfl
    · intro _ d m hin
      cases d
      · simp only [State.bank, setHw_hw, lane_set_get]
        split
        · rw [toWord_toNat_of_lt_cap (ringAdd_lt s.cfg .tx _ _)]; exact ringAdd_lt s.cfg .tx _ _
        · exact hin
      · exact hin
  · exact LaneFrame.refl s

theorem statusStep_frame (s : State) (d : Dir) (n : Lane) : LaneFrame s (statusStep s d n) := by
  unfold statusStep
  split
  · rename_i hact
    cases d <;>
    · constructor <;> first | rfl | (intro e; cases e <;> rfl) | (intro h; exact h) | skip
      · intro e m h; cases e <;> simp_all [State.bank, testLane_latch]
      · intro e m h
        (cases e <;> simp only [State.bank, testLane_latch])
        all_goals first
          | rfl
          | (have : m ≠ n := by rintro rfl; rw [hact] at h; cases h
             simp [this])
      · exact ⟨[], by simp, rfl⟩
      · intro _ e m _; cases e <;> rfl
      · intro e m _; cases e <;> rfl
      · intro _ e m h; cases e <;> exact h
  · exact LaneFrame.refl s

theorem corruptStep_frame (s : State) (d : Dir) (n : Lane) (v : Word) :
    LaneFrame s (corruptStep s d n v) := by
  unfold corruptStep
  split
  · rename_i h
    simp only [Bool.and_eq_true, Bool.not_eq_true'] at h
    obtain ⟨⟨hc, _⟩, hr⟩ := h
    have other : ∀ {e : Dir}, e ≠ d → (s.setBank d ((s.bank d).setHw n v)).bank e = s.bank e :=
      fun he => setBank_bank_other _ _ he
    constructor
    case isr =>
      intro e m hh
      by_cases he : e = d
      · subst he; simpa using hh
      · simpa [other he] using hh
    case hwInactive => intro hc'; rw [hc] at hc'; cases hc'
    case hwInRange => intro hc'; rw [hc] at hc'; cases hc'
    case hist => exact ⟨[], by simp, rfl⟩
    case hwInReset =>
      intro e m hin
      by_cases he : e = d
      · subst he
        simp only [setBank_bank, setHw_hw]
        apply lane_set_other
        rintro rfl
        rw [laneInReset, hr] at hin; cases hin
      · simp [other he]
    all_goals first
      | simp
      | (intro e; by_cases he : e = d
         · subst he; simp
         · simp [other he])
  · exact LaneFrame.refl s

theorem laneStep_frame (s : State) (l : LaneStep) : LaneFrame s (laneStep s l) := by
  cases l with
  | rxByte n b => exact rxByteStep_frame s n b
  | txByte n => exact txByteStep_frame s n
  | status d n => exact statusStep_frame s d n
  | corrupt d n v => exact corruptStep_frame s d n v

theorem laneSteps_frame (l : List LaneStep) : ∀ s : State, LaneFrame s (laneSteps s l) := by
  induction l with
  | nil => exact LaneFrame.refl
  | cons a l ih => intro s; exact (laneStep_frame s a).trans (ih _)

/-- Taking a slot off the schedule is seen by no lane agent. -/
theorem interleave_frame (s : State) : LaneFrame s (interleave s) := by
  unfold interleave
  split
  · exact LaneFrame.refl s
  · rename_i l rest _
    refine LaneFrame.trans (t := { s with sched := rest }) ?_ (laneSteps_frame l _)
    constructor
    case isr => intro d m h; cases d <;> exact h
    case hwInRange => intro _ d m h; cases d <;> exact h
    case hist => exact ⟨[], by simp, rfl⟩
    all_goals first | rfl | (intros; assumption) | (intro d; cases d <;> rfl) | (intros; rename_i d _ _; cases d <;> rfl)

/-- With an empty schedule no lane agent moves. -/
theorem interleave_quiet {s : State} (h : s.sched = []) : interleave s = s := by
  simp [interleave, h]

theorem boundary_quiet {s : State} (h : s.sched = []) : boundary s = advanceCur s := by
  simp [boundary, interleave_quiet h]

/-! ### What lane agents do not look at -/

/-- What the control unit is doing, and what the outside world has in store for it, set. -/
def State.withBusiness (s : State) (c : Option (Instr × Nat)) (q : List Datum) (i : List Packet)
    (d : Draws) : State := { s with cur := c, seen := q, inbox := i, draws := d }

theorem laneStep_withBusiness (s : State) (c : Option (Instr × Nat)) (q : List Datum) (i : List Packet)
    (d : Draws) (l : LaneStep) :
    laneStep (s.withBusiness c q i d) l = (laneStep s l).withBusiness c q i d := by
  cases l with
  | rxByte n b =>
    show (if rxByteEnabled s n = true then _ else _) = State.withBusiness (if _ then _ else _) _ _ _ _
    split <;> rfl
  | txByte n =>
    show (if txByteEnabled s n = true then _ else _) = State.withBusiness (if _ then _ else _) _ _ _ _
    split <;> rfl
  | status e n =>
    show (if laneActive s e n = true then _ else _) = State.withBusiness (if _ then _ else _) _ _ _ _
    cases e <;> split <;> rfl
  | corrupt e n v =>
    show (if (s.cfg.hwMayCorrupt && s.cfg.hasLane n && !testLane (s.bank e).rst n) = true then _ else _) =
      State.withBusiness (if _ then _ else _) _ _ _ _
    cases e <;> split <;> rfl

theorem laneSteps_withBusiness (c : Option (Instr × Nat)) (q : List Datum) (i : List Packet)
    (d : Draws) (l : List LaneStep) :
    ∀ s : State, laneSteps (s.withBusiness c q i d) l = (laneSteps s l).withBusiness c q i d := by
  induction l with
  | nil => intro s; rfl
  | cons a l ih =>
    intro s
    show laneSteps (laneStep (s.withBusiness c q i d) a) l = _
    rw [laneStep_withBusiness, ih]
    rfl

/-- The lane agents do not see what the control unit is doing. -/
theorem interleave_withBusiness (s : State) (c : Option (Instr × Nat)) (q : List Datum) (i : List Packet)
    (d : Draws) : interleave (s.withBusiness c q i d) = (interleave s).withBusiness c q i d := by
  have h : (s.withBusiness c q i d).sched = s.sched := rfl
  cases hs : s.sched with
  | nil => simp [interleave, h, hs]
  | cons l rest =>
    simp only [interleave, h, hs]
    exact laneSteps_withBusiness c q i d l { s with sched := rest }

theorem interleave_beginCommand (j : Instr) (s : State) :
    interleave (beginCommand j s) = beginCommand j (interleave s) := by
  have h := interleave_withBusiness s (some (j, 0)) [] s.inbox s.draws
  have hi := (interleave_frame s).inbox
  have hd := (interleave_frame s).draws
  calc interleave (beginCommand j s) = (interleave s).withBusiness (some (j, 0)) [] s.inbox s.draws := h
    _ = (interleave s).withBusiness (some (j, 0)) [] (interleave s).inbox (interleave s).draws := by
        rw [hi, hd]
    _ = beginCommand j (interleave s) := rfl

/-! ### One slot, field by field -/

@[simp] theorem interleave_en (s : State) (d : Dir) : ((interleave s).bank d).en = (s.bank d).en :=
  (interleave_frame s).en d
@[simp] theorem interleave_rst (s : State) (d : Dir) : ((interleave s).bank d).rst = (s.bank d).rst :=
  (interleave_frame s).rst d
@[simp] theorem interleave_ier (s : State) (d : Dir) : ((interleave s).bank d).ier = (s.bank d).ier :=
  (interleave_frame s).ier d
@[simp] theorem interleave_sw (s : State) (d : Dir) : ((interleave s).bank d).sw = (s.bank d).sw :=
  (interleave_frame s).sw d
@[simp] theorem interleave_base (s : State) (d : Dir) : ((interleave s).bank d).base = (s.bank d).base :=
  (interleave_frame s).base d

/-! ### A micro-step boundary, field by field -/

@[simp] theorem boundary_cfg (s : State) : (boundary s).cfg = s.cfg := (interleave_frame s).cfg
@[simp] theorem boundary_bufSz (s : State) : (boundary s).bufSz = s.bufSz := (interleave_frame s).bufSz
@[simp] theorem boundary_rxTimeout (s : State) : (boundary s).rxTimeout = s.rxTimeout :=
  (interleave_frame s).rxTimeout
@[simp] theorem boundary_attached (s : State) : (boundary s).attached = s.attached :=
  (interleave_frame s).attached
@[simp] theorem boundary_txChan (s : State) : (boundary s).txChan = s.txChan := (interleave_frame s).txChan
@[simp] theorem boundary_rxChan (s : State) : (boundary s).rxChan = s.rxChan := (interleave_frame s).rxChan
@[simp] theorem boundary_txBuf (s : State) : (boundary s).txBuf = s.txBuf := (interleave_frame s).txBuf
@[simp] theorem boundary_faulted (s : State) : (boundary s).faulted = s.faulted :=
  (interleave_frame s).faulted
@[simp] theorem boundary_refused (s : State) : (boundary s).refused = s.refused :=
  (interleave_frame s).refused
@[simp] theorem boundary_inbox (s : State) : (boundary s).inbox = s.inbox := (interleave_frame s).inbox
@[simp] theorem boundary_draws (s : State) : (boundary s).draws = s.draws := (interleave_frame s).draws
@[simp] theorem boundary_readData (s : State) : (boundary s).readData = s.readData :=
  (interleave_frame s).readData
@[simp] theorem boundary_seen (s : State) : (boundary s).seen = s.seen := (interleave_frame s).seen
@[simp] theorem boundary_pace (s : State) : (boundary s).pace = s.pace := (interleave_frame s).pace
@[simp] theorem boundary_en (s : State) (d : Dir) : ((boundary s).bank d).en = (s.bank d).en := by
  exact (interleave_frame s).en d
@[simp] theorem boundary_rst (s : State) (d : Dir) : ((boundary s).bank d).rst = (s.bank d).rst := by
  exact (interleave_frame s).rst d
@[simp] theorem boundary_ier (s : State) (d : Dir) : ((boundary s).bank d).ier = (s.bank d).ier := by
  exact (interleave_frame s).ier d
@[simp] theorem boundary_sw (s : State) (d : Dir) : ((boundary s).bank d).sw = (s.bank d).sw := by
  exact (interleave_frame s).sw d
@[simp] theorem boundary_base (s : State) (d : Dir) : ((boundary s).bank d).base = (s.bank d).base := by
  exact (interleave_frame s).base d
@[simp] theorem boundary_tx_en (s : State) : (boundary s).tx.en = s.tx.en := boundary_en s .tx
@[simp] theorem boundary_rx_en (s : State) : (boundary s).rx.en = s.rx.en := boundary_en s .rx
@[simp] theorem boundary_tx_rst (s : State) : (boundary s).tx.rst = s.tx.rst := boundary_rst s .tx
@[simp] theorem boundary_rx_rst (s : State) : (boundary s).rx.rst = s.rx.rst := boundary_rst s .rx
@[simp] theorem boundary_tx_ier (s : State) : (boundary s).tx.ier = s.tx.ier := boundary_ier s .tx
@[simp] theorem boundary_rx_ier (s : State) : (boundary s).rx.ier = s.rx.ier := boundary_ier s .rx
@[simp] theorem boundary_tx_sw (s : State) : (boundary s).tx.sw = s.tx.sw := boundary_sw s .tx
@[simp] theorem boundary_rx_sw (s : State) : (boundary s).rx.sw = s.rx.sw := boundary_sw s .rx
@[simp] theorem boundary_tx_base (s : State) : (boundary s).tx.base = s.tx.base := boundary_base s .tx
@[simp] theorem boundary_rx_base (s : State) : (boundary s).rx.base = s.rx.base := boundary_base s .rx

@[simp] theorem boundary_chan (s : State) (d : Dir) (n : Lane) : (boundary s).chan d n = s.chan d n := by
  cases d <;> simp [State.chan]

@[simp] theorem boundary_buf (s : State) (d : Dir) (n : Lane) : (boundary s).buf d n = s.buf d n := by
  cases d <;> simp [State.buf]

@[simp] theorem boundary_laneEnabled (s : State) (d : Dir) (n : Lane) :
    laneEnabled (boundary s) d n = laneEnabled s d n := by simp [laneEnabled]

@[simp] theorem boundary_laneInReset (s : State) (d : Dir) (n : Lane) :
    laneInReset (boundary s) d n = laneInReset s d n := by simp [laneInReset]

theorem boundary_cur (s : State) : (boundary s).cur = s.cur.map fun c => (c.1, c.2 + 1) := by
  simp [boundary, (interleave_frame s).cur]

/-- A boundary keeps the control part (R160). -/
@[simp] theorem controlPart_boundary (s : State) : controlPart (boundary s) = controlPart s := by
  simp [controlPart, Bank.controlPart]

end Sys2Proof.Machine
end

