-- ==== Sys2Proof/Laws/Op.lean ====
section
/-! SUPPORT. Running operations: sequencing, and for each shared operation what it answers. -/

namespace Sys2Proof.Machine

/-! ### Sequencing -/

/-- `do` over pieces of a command is `Op.bind`. -/
@[simp] theorem op_bind {α β : Type} (x : Op α) (f : α → Op β) :
    (letI := opMonad; x >>= f) = x.bind f := rfl

@[simp] theorem op_pure {α : Type} (a : α) : (letI := opMonad; (pure a : Op α)) = .done a := rfl

/-- One piece after another. -/
@[simp] theorem run_bind {α β : Type} (x : Op α) (f : α → Op β) :
    ∀ s, (x.bind f).run s = match x.run s with
      | .ok a t => (f a).run t
      | .error e t => .error e t := by
  induction x with
  | done a => intro s; rfl
  | stop r => intro s; rfl
  | config k ih => intro s; exact ih s.cfg s
  | look g k ih => intro s; exact ih (g s) s
  | access g k ih =>
    intro s
    simp only [Op.bind, Op.run]
    cases h : g (boundary s) with
    | error e => rfl
    | ok p => exact ih p.1 p.2

@[simp] theorem run_done {α : Type} (a : α) (s : State) : (Op.done a).run s = .ok a s := rfl
@[simp] theorem run_stop {α : Type} (r : Stop) (s : State) : (Op.stop r : Op α).run s = .error r s := rfl
@[simp] theorem params_run (s : State) : params.run s = .ok s.cfg s := rfl
@[simp] theorem lookAttached_run (s : State) : lookAttached.run s = .ok s.attached s := rfl
@[simp] theorem lookChan_run (d : Dir) (n : Lane) (s : State) :
    (lookChan d n).run s = .ok (s.chan d n) s := rfl
@[simp] theorem lookBuf_run (d : Dir) (n : Lane) (s : State) : (lookBuf d n).run s = .ok (s.buf d n) s := rfl
@[simp] theorem lookFits_run (a : Word) (s : State) : (lookFits a).run s = .ok (txBufferFits s a) s := rfl
@[simp] theorem update_run (f : State → State) (s : State) : (update f).run s = .ok () (f (boundary s)) := rfl
@[simp] theorem emit_run (e : Event) (s : State) : (emit e).run s = .ok () ((boundary s).log e) := rfl
@[simp] theorem updateChan_run (d : Dir) (n : Lane) (f : Chan → Chan) (s : State) :
    (updateChan d n f).run s = .ok () ((boundary s).setChan d n (f (s.chan d n))) := by
  simp [updateChan]
@[simp] theorem setRun_run (d : Dir) (n : Lane) (r : RunState) (s : State) :
    (setRun d n r).run s = .ok () ((boundary s).setChan d n { s.chan d n with run := r }) := by
  simp [setRun]
@[simp] theorem setWork_run (d : Dir) (n : Lane) (s : State) :
    (setWork d n).run s = .ok () ((boundary s).setChan d n { s.chan d n with work := true }) := by
  simp [setWork]
@[simp] theorem clearEntry_run (d : Dir) (n : Lane) (s : State) :
    (clearEntry d n).run s = .ok () ((boundary s).setChan d n Chan.reset) := by
  simp [clearEntry]
@[simp] theorem clearTxBuf_run (n : Lane) (s : State) :
    (clearTxBuf n).run s = .ok () ((boundary s).setTxBuf n 0) := rfl

@[simp] theorem faultWith_run {α : Type} (r : Fault) (s : State) :
    (faultWith r : Op α).run s = .error (.fault r) s := rfl
@[simp] theorem faultIf_false (r : Fault) : faultIf false r = .done () := rfl
@[simp] theorem faultIf_true (r : Fault) : faultIf true r = .stop (.fault r) := rfl
@[simp] theorem opWhen_false (x : Op Unit) : opWhen false x = .done () := rfl
@[simp] theorem opWhen_true (x : Op Unit) : opWhen true x = x := rfl

/-- A sequence answers where both parts do. -/
theorem run_bind_ok {α β : Type} {x : Op α} {f : α → Op β} {s t : State} {b : β} :
    (x.bind f).run s = .ok b t ↔ ∃ a u, x.run s = .ok a u ∧ (f a).run u = .ok b t := by
  rw [run_bind]
  cases h : x.run s <;> simp

/-- A sequence stops where its first part does, or its second after the first. -/
theorem run_bind_error {α β : Type} {x : Op α} {f : α → Op β} {s t : State} {e : Stop} :
    (x.bind f).run s = .error e t ↔
      x.run s = .error e t ∨ ∃ a u, x.run s = .ok a u ∧ (f a).run u = .error e t := by
  rw [run_bind]
  cases h : x.run s <;> simp

/-! ### Draws -/

@[simp] theorem nextReserved_boundary (s : State) : nextReserved (boundary s) = nextReserved s := by
  simp [nextReserved]
@[simp] theorem nextAccepted_boundary (s : State) (k : Nat) :
    nextAccepted (boundary s) k = nextAccepted s k := by simp [nextAccepted]
@[simp] theorem nextStream_boundary (s : State) : nextStream (boundary s) = nextStream s := by
  simp [nextStream]

theorem nextAccepted_le (s : State) (k : Nat) : nextAccepted s k ≤ k := by
  unfold nextAccepted; split <;> exact Nat.min_le_right _ _

@[simp] theorem drawAccepted_run (k : Nat) (s : State) :
    (drawAccepted k).run s = .ok (nextAccepted s k) (dropAccepted (boundary s)) := by
  simp [drawAccepted, Op.run]
@[simp] theorem drawStream_run (s : State) :
    drawStream.run s = .ok (nextStream s) (dropStream (boundary s)) := by simp [drawStream, Op.run]

/-! ### Register reads -/

@[simp] theorem ld32_en (d : Dir) (s : State) : (ld32 (.en d)).run s =
    .ok (maskedRead s.cfg (s.bank d).en (nextReserved s)) (dropReserved (boundary s)) := by
  simp [ld32, Op.run, regValue, afterRead]
@[simp] theorem ld32_rst (d : Dir) (s : State) : (ld32 (.rst d)).run s =
    .ok (maskedRead s.cfg (s.bank d).rst (nextReserved s)) (dropReserved (boundary s)) := by
  simp [ld32, Op.run, regValue, afterRead]
@[simp] theorem ld32_ier (d : Dir) (s : State) : (ld32 (.ier d)).run s =
    .ok (maskedRead s.cfg (s.bank d).ier (nextReserved s)) (dropReserved (boundary s)) := by
  simp [ld32, Op.run, regValue, afterRead]
@[simp] theorem ld32_isr (d : Dir) (s : State) : (ld32 (.isr d)).run s =
    .ok (maskedRead s.cfg ((boundary s).bank d).isr (nextReserved s)) (dropReserved (boundary s)) := by
  simp [ld32, Op.run, regValue, afterRead]
@[simp] theorem ld32_bufSz (s : State) : (ld32 .bufSz).run s = .ok s.bufSz (boundary s) := by
  simp [ld32, Op.run, regValue, afterRead]
@[simp] theorem ld32_rxTimeout (s : State) : (ld32 .rxTimeout).run s = .ok s.rxTimeout (boundary s) := by
  simp [ld32, Op.run, regValue, afterRead]
@[simp] theorem ld32_hw (d : Dir) (n : Lane) (s : State) :
    (ld32 (.hw d n)).run s = .ok ((boundary s).bank d).hw[n.val] (boundary s) := by
  simp [ld32, Op.run, regValue, afterRead]
@[simp] theorem ld32_sw (d : Dir) (n : Lane) (s : State) :
    (ld32 (.sw d n)).run s = .ok (s.bank d).sw[n.val] (boundary s) := by
  simp [ld32, Op.run, regValue, afterRead]
@[simp] theorem ld32_base (d : Dir) (n : Lane) (s : State) :
    (ld32 (.base d n)).run s = .ok (s.bank d).base[n.val] (boundary s) := by
  simp [ld32, Op.run, regValue, afterRead]

/-! ### Register writes -/

theorem st32_en {d : Dir} {v : Word} (s : State) (h : hasReserved s.cfg v = false) :
    (st32 (.en d) v).run s = .ok () ((boundary s).withEn d v) := by
  simp [st32, Op.run, regWrite, Except.map, h]
theorem st32_rst {d : Dir} {v : Word} (s : State) (h : hasReserved s.cfg v = false) :
    (st32 (.rst d) v).run s = .ok () (assertReset (boundary s) d v) := by
  simp [st32, Op.run, regWrite, Except.map, h]
theorem st32_ier {d : Dir} {v : Word} (s : State) (h : hasReserved s.cfg v = false) :
    (st32 (.ier d) v).run s = .ok () ((boundary s).withIer d v) := by
  simp [st32, Op.run, regWrite, Except.map, h]
@[simp] theorem st32_isr (d : Dir) (v : Word) (s : State) :
    (st32 (.isr d) v).run s =
      .ok () ((boundary s).withIsr d (writeOneToClear ((boundary s).bank d).isr v)) := by
  simp [st32, Op.run, regWrite, Except.map]
theorem st32_bufSz {v : Word} (s : State) (h : (s.tx.en ||| s.rx.en) &&& laneMask s.cfg = 0)
    (hv : v = s.cfg.sizeClass) : (st32 .bufSz v).run s = .ok () { boundary s with bufSz := v } := by
  simp [st32, Op.run, regWrite, Except.map, h, hv]
@[simp] theorem st32_rxTimeout (v : Word) (s : State) :
    (st32 .rxTimeout v).run s = .ok () { boundary s with rxTimeout := v } := by
  simp [st32, Op.run, regWrite, Except.map]
theorem st32_hw {d : Dir} {n : Lane} {v : Word} (s : State) (hv : v.toNat < cap s.cfg d)
    (he : laneEnabled s d n = false) (hr : laneInReset s d n = false) :
    (st32 (.hw d n) v).run s = .ok () ((boundary s).withHw d n v) := by
  simp [st32, Op.run, regWrite, Except.map, Nat.not_le.mpr hv, he, hr]
theorem st32_sw {d : Dir} {n : Lane} {v : Word} (s : State) (hv : v.toNat < cap s.cfg d)
    (hr : laneInReset s d n = false) :
    (st32 (.sw d n) v).run s = .ok () ((boundary s).withSw d n v) := by
  simp [st32, Op.run, regWrite, Except.map, Nat.not_le.mpr hv, hr]
theorem st32_base {d : Dir} {n : Lane} {v : Word} (s : State) (he : laneEnabled s d n = false)
    (ha : aligned s.cfg v = true) :
    (st32 (.base d n) v).run s = .ok () ((boundary s).withBase d n v) := by
  simp [st32, Op.run, regWrite, Except.map, ha, he]

/-! ### Pseudo-instructions -/

@[simp] theorem ack_run (d : Dir) (n : Lane) (s : State) : (ack d n).run s =
    .ok () ((boundary s).withIsr d (writeOneToClear ((boundary s).bank d).isr (laneBit n))) := by
  simp [ack]

@[simp] theorem setEn_run (d : Dir) (n : Lane) (s : State) : (setEn d n).run s =
    .ok () ((boundary (dropReserved (boundary s))).withEn d (withLaneBit s.cfg (s.bank d).en n)) := by
  simp [setEn, st32_en]

@[simp] theorem clrEn_run (d : Dir) (n : Lane) (s : State) : (clrEn d n).run s =
    .ok () ((boundary (dropReserved (boundary s))).withEn d (withoutLaneBit s.cfg (s.bank d).en n)) := by
  simp [clrEn, st32_en]

theorem pulse_run (d : Dir) {n : Lane} {s : State} (h : s.cfg.hasLane n = true) : (pulse d n).run s =
    .ok () (assertReset (boundary (assertReset (boundary s) d (laneBit n))) d 0) := by
  simp [pulse, st32_rst, hasReserved_laneBit h]

/-! ### Commands -/

theorem laneOf_eq_some {c : Params} {f : LaneField} {n : Lane} :
    laneOf c f = some n ↔ f = n ∧ c.hasLane n = true := by
  unfold laneOf
  split
  · rename_i h
    simp only [Option.some.injEq]
    exact ⟨fun e => ⟨e, e ▸ h⟩, fun e => e.1⟩
  · rename_i h
    simp only [reduceCtorEq, false_iff, not_and]
    rintro rfl
    exact h

theorem laneOf_eq_none {c : Params} {f : LaneField} : laneOf c f = none ↔ c.numLanes.val ≤ f.val := by
  simp [laneOf, Params.hasLane]

theorem laneOf_hasLane {c : Params} {f : LaneField} {n : Lane} (h : laneOf c f = some n) :
    c.hasLane n = true := (laneOf_eq_some.mp h).2

/-- How a whole command ends, from how its body does. -/
theorem commandProgram_run (i : Instr) (body : Op Ret) (s : State) :
    (commandProgram i body).run s = match body.run s with
      | .ok r t => .ok () (endCommand i r (boundary t))
      | .error e t => .error e t := by
  cases h : body.run s <;> simp [commandProgram, h]

/-- What the machine answers to a command, from how its body ends. -/
def finished (i : Instr) : EStateM.Result Stop State Ret → Host.Outcome State Fault Refusal
  | .ok r t => .next (endCommand i r (boundary t))
  | .error e _ => e.outcome

@[simp] theorem finished_ok (i : Instr) (r : Ret) (s : State) :
    finished i (.ok r s) = .next (endCommand i r (boundary s)) := rfl

theorem runCommand_eq (i : Instr) (body : Op Ret) (s : State) :
    runCommand i (commandProgram i body) s = finished i (body.run (beginCommand i s)) := by
  simp only [runCommand, commandProgram_run]
  cases body.run (beginCommand i s) <;> rfl

theorem attachedProgram_run {i : Instr} {body : Op Ret} {s : State} (ha : s.attached = true) :
    runCommand i (attachedProgram i body) s = finished i (body.run (beginCommand i s)) := by
  simp [attachedProgram, runCommand_eq, attachedOnly, ha]

theorem laneProgram_run {i : Instr} {f : LaneField} {n : Lane} {body : Lane → Op Ret} {s : State}
    (ha : s.attached = true) (hn : laneOf s.cfg f = some n) :
    runCommand i (laneProgram i f body) s = finished i ((body n).run (beginCommand i s)) := by
  simp [laneProgram, attachedProgram_run ha, laneBody, hn]

/-- A command that does nothing but answer. -/
theorem endCommand_boundary_beginCommand (i j : Instr) (r : Ret) (s : State) :
    endCommand i r (boundary (beginCommand j s)) =
      { interleave s with
        hist := (interleave s).hist ++ [.result i r.code r.value], cur := none, seen := [] } := by
  rw [boundary, interleave_beginCommand]
  rfl

end Sys2Proof.Machine
end

