-- ==== Sys2Proof/Laws/Updates.lean ====
section
/-! SUPPORT. The updates claims name, field by field, and how the control part and the quiet part see
each update. -/

namespace Sys2Proof.Machine


/-! ### `withEn` -/

@[simp] theorem withEn_cfg (s : State) (d : Dir) (v : Word) : (s.withEn d v).cfg = s.cfg := by cases d <;> rfl
@[simp] theorem withEn_bufSz (s : State) (d : Dir) (v : Word) : (s.withEn d v).bufSz = s.bufSz := by cases d <;> rfl
@[simp] theorem withEn_rxTimeout (s : State) (d : Dir) (v : Word) : (s.withEn d v).rxTimeout = s.rxTimeout := by cases d <;> rfl
@[simp] theorem withEn_txMoved (s : State) (d : Dir) (v : Word) : (s.withEn d v).txMoved = s.txMoved := by cases d <;> rfl
@[simp] theorem withEn_attached (s : State) (d : Dir) (v : Word) : (s.withEn d v).attached = s.attached := by cases d <;> rfl
@[simp] theorem withEn_txChan (s : State) (d : Dir) (v : Word) : (s.withEn d v).txChan = s.txChan := by cases d <;> rfl
@[simp] theorem withEn_rxChan (s : State) (d : Dir) (v : Word) : (s.withEn d v).rxChan = s.rxChan := by cases d <;> rfl
@[simp] theorem withEn_txBuf (s : State) (d : Dir) (v : Word) : (s.withEn d v).txBuf = s.txBuf := by cases d <;> rfl
@[simp] theorem withEn_hist (s : State) (d : Dir) (v : Word) : (s.withEn d v).hist = s.hist := by cases d <;> rfl
@[simp] theorem withEn_cur (s : State) (d : Dir) (v : Word) : (s.withEn d v).cur = s.cur := by cases d <;> rfl
@[simp] theorem withEn_faulted (s : State) (d : Dir) (v : Word) : (s.withEn d v).faulted = s.faulted := by cases d <;> rfl
@[simp] theorem withEn_refused (s : State) (d : Dir) (v : Word) : (s.withEn d v).refused = s.refused := by cases d <;> rfl
@[simp] theorem withEn_mem (s : State) (d : Dir) (v : Word) : (s.withEn d v).mem = s.mem := by cases d <;> rfl
@[simp] theorem withEn_inbox (s : State) (d : Dir) (v : Word) : (s.withEn d v).inbox = s.inbox := by cases d <;> rfl
@[simp] theorem withEn_sched (s : State) (d : Dir) (v : Word) : (s.withEn d v).sched = s.sched := by cases d <;> rfl
@[simp] theorem withEn_draws (s : State) (d : Dir) (v : Word) : (s.withEn d v).draws = s.draws := by cases d <;> rfl
@[simp] theorem withEn_readData (s : State) (d : Dir) (v : Word) : (s.withEn d v).readData = s.readData := by cases d <;> rfl
@[simp] theorem withEn_seen (s : State) (d : Dir) (v : Word) : (s.withEn d v).seen = s.seen := by cases d <;> rfl
@[simp] theorem withEn_pace (s : State) (d : Dir) (v : Word) : (s.withEn d v).pace = s.pace := by cases d <;> rfl
@[simp] theorem withEn_chan (s : State) (d : Dir) (v : Word) (e : Dir) (m : Lane) : (s.withEn d v).chan e m = s.chan e m := by
  cases d <;> cases e <;> rfl
@[simp] theorem withEn_buf (s : State) (d : Dir) (v : Word) (e : Dir) (m : Lane) : (s.withEn d v).buf e m = s.buf e m := by
  cases d <;> cases e <;> rfl
@[simp] theorem withEn_bank_en (s : State) (d : Dir) (v : Word) : ((s.withEn d v).bank d).en = v := by cases d <;> rfl
@[simp] theorem withEn_bank_rst (s : State) (d : Dir) (v : Word) (e : Dir) : ((s.withEn d v).bank e).rst = (s.bank e).rst := by
  cases d <;> cases e <;> rfl
@[simp] theorem withEn_bank_ier (s : State) (d : Dir) (v : Word) (e : Dir) : ((s.withEn d v).bank e).ier = (s.bank e).ier := by
  cases d <;> cases e <;> rfl
@[simp] theorem withEn_bank_isr (s : State) (d : Dir) (v : Word) (e : Dir) : ((s.withEn d v).bank e).isr = (s.bank e).isr := by
  cases d <;> cases e <;> rfl
@[simp] theorem withEn_bank_hw (s : State) (d : Dir) (v : Word) (e : Dir) : ((s.withEn d v).bank e).hw = (s.bank e).hw := by
  cases d <;> cases e <;> rfl
@[simp] theorem withEn_bank_sw (s : State) (d : Dir) (v : Word) (e : Dir) : ((s.withEn d v).bank e).sw = (s.bank e).sw := by
  cases d <;> cases e <;> rfl
@[simp] theorem withEn_bank_base (s : State) (d : Dir) (v : Word) (e : Dir) : ((s.withEn d v).bank e).base = (s.bank e).base := by
  cases d <;> cases e <;> rfl
theorem withEn_bank_other (s : State) (d : Dir) (v : Word) {e : Dir} (h : e ≠ d) : (s.withEn d v).bank e = s.bank e :=
  setBank_bank_other s _ h

/-! ### `withRst` -/

@[simp] theorem withRst_cfg (s : State) (d : Dir) (v : Word) : (s.withRst d v).cfg = s.cfg := by cases d <;> rfl
@[simp] theorem withRst_bufSz (s : State) (d : Dir) (v : Word) : (s.withRst d v).bufSz = s.bufSz := by cases d <;> rfl
@[simp] theorem withRst_rxTimeout (s : State) (d : Dir) (v : Word) : (s.withRst d v).rxTimeout = s.rxTimeout := by cases d <;> rfl
@[simp] theorem withRst_txMoved (s : State) (d : Dir) (v : Word) : (s.withRst d v).txMoved = s.txMoved := by cases d <;> rfl
@[simp] theorem withRst_attached (s : State) (d : Dir) (v : Word) : (s.withRst d v).attached = s.attached := by cases d <;> rfl
@[simp] theorem withRst_txChan (s : State) (d : Dir) (v : Word) : (s.withRst d v).txChan = s.txChan := by cases d <;> rfl
@[simp] theorem withRst_rxChan (s : State) (d : Dir) (v : Word) : (s.withRst d v).rxChan = s.rxChan := by cases d <;> rfl
@[simp] theorem withRst_txBuf (s : State) (d : Dir) (v : Word) : (s.withRst d v).txBuf = s.txBuf := by cases d <;> rfl
@[simp] theorem withRst_hist (s : State) (d : Dir) (v : Word) : (s.withRst d v).hist = s.hist := by cases d <;> rfl
@[simp] theorem withRst_cur (s : State) (d : Dir) (v : Word) : (s.withRst d v).cur = s.cur := by cases d <;> rfl
@[simp] theorem withRst_faulted (s : State) (d : Dir) (v : Word) : (s.withRst d v).faulted = s.faulted := by cases d <;> rfl
@[simp] theorem withRst_refused (s : State) (d : Dir) (v : Word) : (s.withRst d v).refused = s.refused := by cases d <;> rfl
@[simp] theorem withRst_mem (s : State) (d : Dir) (v : Word) : (s.withRst d v).mem = s.mem := by cases d <;> rfl
@[simp] theorem withRst_inbox (s : State) (d : Dir) (v : Word) : (s.withRst d v).inbox = s.inbox := by cases d <;> rfl
@[simp] theorem withRst_sched (s : State) (d : Dir) (v : Word) : (s.withRst d v).sched = s.sched := by cases d <;> rfl
@[simp] theorem withRst_draws (s : State) (d : Dir) (v : Word) : (s.withRst d v).draws = s.draws := by cases d <;> rfl
@[simp] theorem withRst_readData (s : State) (d : Dir) (v : Word) : (s.withRst d v).readData = s.readData := by cases d <;> rfl
@[simp] theorem withRst_seen (s : State) (d : Dir) (v : Word) : (s.withRst d v).seen = s.seen := by cases d <;> rfl
@[simp] theorem withRst_pace (s : State) (d : Dir) (v : Word) : (s.withRst d v).pace = s.pace := by cases d <;> rfl
@[simp] theorem withRst_chan (s : State) (d : Dir) (v : Word) (e : Dir) (m : Lane) : (s.withRst d v).chan e m = s.chan e m := by
  cases d <;> cases e <;> rfl
@[simp] theorem withRst_buf (s : State) (d : Dir) (v : Word) (e : Dir) (m : Lane) : (s.withRst d v).buf e m = s.buf e m := by
  cases d <;> cases e <;> rfl
@[simp] theorem withRst_bank_en (s : State) (d : Dir) (v : Word) (e : Dir) : ((s.withRst d v).bank e).en = (s.bank e).en := by
  cases d <;> cases e <;> rfl
@[simp] theorem withRst_bank_rst (s : State) (d : Dir) (v : Word) : ((s.withRst d v).bank d).rst = v := by cases d <;> rfl
@[simp] theorem withRst_bank_ier (s : State) (d : Dir) (v : Word) (e : Dir) : ((s.withRst d v).bank e).ier = (s.bank e).ier := by
  cases d <;> cases e <;> rfl
@[simp] theorem withRst_bank_isr (s : State) (d : Dir) (v : Word) (e : Dir) : ((s.withRst d v).bank e).isr = (s.bank e).isr := by
  cases d <;> cases e <;> rfl
@[simp] theorem withRst_bank_hw (s : State) (d : Dir) (v : Word) (e : Dir) : ((s.withRst d v).bank e).hw = (s.bank e).hw := by
  cases d <;> cases e <;> rfl
@[simp] theorem withRst_bank_sw (s : State) (d : Dir) (v : Word) (e : Dir) : ((s.withRst d v).bank e).sw = (s.bank e).sw := by
  cases d <;> cases e <;> rfl
@[simp] theorem withRst_bank_base (s : State) (d : Dir) (v : Word) (e : Dir) : ((s.withRst d v).bank e).base = (s.bank e).base := by
  cases d <;> cases e <;> rfl
theorem withRst_bank_other (s : State) (d : Dir) (v : Word) {e : Dir} (h : e ≠ d) : (s.withRst d v).bank e = s.bank e :=
  setBank_bank_other s _ h

/-! ### `withIer` -/

@[simp] theorem withIer_cfg (s : State) (d : Dir) (v : Word) : (s.withIer d v).cfg = s.cfg := by cases d <;> rfl
@[simp] theorem withIer_bufSz (s : State) (d : Dir) (v : Word) : (s.withIer d v).bufSz = s.bufSz := by cases d <;> rfl
@[simp] theorem withIer_rxTimeout (s : State) (d : Dir) (v : Word) : (s.withIer d v).rxTimeout = s.rxTimeout := by cases d <;> rfl
@[simp] theorem withIer_txMoved (s : State) (d : Dir) (v : Word) : (s.withIer d v).txMoved = s.txMoved := by cases d <;> rfl
@[simp] theorem withIer_attached (s : State) (d : Dir) (v : Word) : (s.withIer d v).attached = s.attached := by cases d <;> rfl
@[simp] theorem withIer_txChan (s : State) (d : Dir) (v : Word) : (s.withIer d v).txChan = s.txChan := by cases d <;> rfl
@[simp] theorem withIer_rxChan (s : State) (d : Dir) (v : Word) : (s.withIer d v).rxChan = s.rxChan := by cases d <;> rfl
@[simp] theorem withIer_txBuf (s : State) (d : Dir) (v : Word) : (s.withIer d v).txBuf = s.txBuf := by cases d <;> rfl
@[simp] theorem withIer_hist (s : State) (d : Dir) (v : Word) : (s.withIer d v).hist = s.hist := by cases d <;> rfl
@[simp] theorem withIer_cur (s : State) (d : Dir) (v : Word) : (s.withIer d v).cur = s.cur := by cases d <;> rfl
@[simp] theorem withIer_faulted (s : State) (d : Dir) (v : Word) : (s.withIer d v).faulted = s.faulted := by cases d <;> rfl
@[simp] theorem withIer_refused (s : State) (d : Dir) (v : Word) : (s.withIer d v).refused = s.refused := by cases d <;> rfl
@[simp] theorem withIer_mem (s : State) (d : Dir) (v : Word) : (s.withIer d v).mem = s.mem := by cases d <;> rfl
@[simp] theorem withIer_inbox (s : State) (d : Dir) (v : Word) : (s.withIer d v).inbox = s.inbox := by cases d <;> rfl
@[simp] theorem withIer_sched (s : State) (d : Dir) (v : Word) : (s.withIer d v).sched = s.sched := by cases d <;> rfl
@[simp] theorem withIer_draws (s : State) (d : Dir) (v : Word) : (s.withIer d v).draws = s.draws := by cases d <;> rfl
@[simp] theorem withIer_readData (s : State) (d : Dir) (v : Word) : (s.withIer d v).readData = s.readData := by cases d <;> rfl
@[simp] theorem withIer_seen (s : State) (d : Dir) (v : Word) : (s.withIer d v).seen = s.seen := by cases d <;> rfl
@[simp] theorem withIer_pace (s : State) (d : Dir) (v : Word) : (s.withIer d v).pace = s.pace := by cases d <;> rfl
@[simp] theorem withIer_chan (s : State) (d : Dir) (v : Word) (e : Dir) (m : Lane) : (s.withIer d v).chan e m = s.chan e m := by
  cases d <;> cases e <;> rfl
@[simp] theorem withIer_buf (s : State) (d : Dir) (v : Word) (e : Dir) (m : Lane) : (s.withIer d v).buf e m = s.buf e m := by
  cases d <;> cases e <;> rfl
@[simp] theorem withIer_bank_en (s : State) (d : Dir) (v : Word) (e : Dir) : ((s.withIer d v).bank e).en = (s.bank e).en := by
  cases d <;> cases e <;> rfl
@[simp] theorem withIer_bank_rst (s : State) (d : Dir) (v : Word) (e : Dir) : ((s.withIer d v).bank e).rst = (s.bank e).rst := by
  cases d <;> cases e <;> rfl
@[simp] theorem withIer_bank_ier (s : State) (d : Dir) (v : Word) : ((s.withIer d v).bank d).ier = v := by cases d <;> rfl
@[simp] theorem withIer_bank_isr (s : State) (d : Dir) (v : Word) (e : Dir) : ((s.withIer d v).bank e).isr = (s.bank e).isr := by
  cases d <;> cases e <;> rfl
@[simp] theorem withIer_bank_hw (s : State) (d : Dir) (v : Word) (e : Dir) : ((s.withIer d v).bank e).hw = (s.bank e).hw := by
  cases d <;> cases e <;> rfl
@[simp] theorem withIer_bank_sw (s : State) (d : Dir) (v : Word) (e : Dir) : ((s.withIer d v).bank e).sw = (s.bank e).sw := by
  cases d <;> cases e <;> rfl
@[simp] theorem withIer_bank_base (s : State) (d : Dir) (v : Word) (e : Dir) : ((s.withIer d v).bank e).base = (s.bank e).base := by
  cases d <;> cases e <;> rfl
theorem withIer_bank_other (s : State) (d : Dir) (v : Word) {e : Dir} (h : e ≠ d) : (s.withIer d v).bank e = s.bank e :=
  setBank_bank_other s _ h

/-! ### `withIsr` -/

@[simp] theorem withIsr_cfg (s : State) (d : Dir) (v : Word) : (s.withIsr d v).cfg = s.cfg := by cases d <;> rfl
@[simp] theorem withIsr_bufSz (s : State) (d : Dir) (v : Word) : (s.withIsr d v).bufSz = s.bufSz := by cases d <;> rfl
@[simp] theorem withIsr_rxTimeout (s : State) (d : Dir) (v : Word) : (s.withIsr d v).rxTimeout = s.rxTimeout := by cases d <;> rfl
@[simp] theorem withIsr_txMoved (s : State) (d : Dir) (v : Word) : (s.withIsr d v).txMoved = s.txMoved := by cases d <;> rfl
@[simp] theorem withIsr_attached (s : State) (d : Dir) (v : Word) : (s.withIsr d v).attached = s.attached := by cases d <;> rfl
@[simp] theorem withIsr_txChan (s : State) (d : Dir) (v : Word) : (s.withIsr d v).txChan = s.txChan := by cases d <;> rfl
@[simp] theorem withIsr_rxChan (s : State) (d : Dir) (v : Word) : (s.withIsr d v).rxChan = s.rxChan := by cases d <;> rfl
@[simp] theorem withIsr_txBuf (s : State) (d : Dir) (v : Word) : (s.withIsr d v).txBuf = s.txBuf := by cases d <;> rfl
@[simp] theorem withIsr_hist (s : State) (d : Dir) (v : Word) : (s.withIsr d v).hist = s.hist := by cases d <;> rfl
@[simp] theorem withIsr_cur (s : State) (d : Dir) (v : Word) : (s.withIsr d v).cur = s.cur := by cases d <;> rfl
@[simp] theorem withIsr_faulted (s : State) (d : Dir) (v : Word) : (s.withIsr d v).faulted = s.faulted := by cases d <;> rfl
@[simp] theorem withIsr_refused (s : State) (d : Dir) (v : Word) : (s.withIsr d v).refused = s.refused := by cases d <;> rfl
@[simp] theorem withIsr_mem (s : State) (d : Dir) (v : Word) : (s.withIsr d v).mem = s.mem := by cases d <;> rfl
@[simp] theorem withIsr_inbox (s : State) (d : Dir) (v : Word) : (s.withIsr d v).inbox = s.inbox := by cases d <;> rfl
@[simp] theorem withIsr_sched (s : State) (d : Dir) (v : Word) : (s.withIsr d v).sched = s.sched := by cases d <;> rfl
@[simp] theorem withIsr_draws (s : State) (d : Dir) (v : Word) : (s.withIsr d v).draws = s.draws := by cases d <;> rfl
@[simp] theorem withIsr_readData (s : State) (d : Dir) (v : Word) : (s.withIsr d v).readData = s.readData := by cases d <;> rfl
@[simp] theorem withIsr_seen (s : State) (d : Dir) (v : Word) : (s.withIsr d v).seen = s.seen := by cases d <;> rfl
@[simp] theorem withIsr_pace (s : State) (d : Dir) (v : Word) : (s.withIsr d v).pace = s.pace := by cases d <;> rfl
@[simp] theorem withIsr_chan (s : State) (d : Dir) (v : Word) (e : Dir) (m : Lane) : (s.withIsr d v).chan e m = s.chan e m := by
  cases d <;> cases e <;> rfl
@[simp] theorem withIsr_buf (s : State) (d : Dir) (v : Word) (e : Dir) (m : Lane) : (s.withIsr d v).buf e m = s.buf e m := by
  cases d <;> cases e <;> rfl
@[simp] theorem withIsr_bank_en (s : State) (d : Dir) (v : Word) (e : Dir) : ((s.withIsr d v).bank e).en = (s.bank e).en := by
  cases d <;> cases e <;> rfl
@[simp] theorem withIsr_bank_rst (s : State) (d : Dir) (v : Word) (e : Dir) : ((s.withIsr d v).bank e).rst = (s.bank e).rst := by
  cases d <;> cases e <;> rfl
@[simp] theorem withIsr_bank_ier (s : State) (d : Dir) (v : Word) (e : Dir) : ((s.withIsr d v).bank e).ier = (s.bank e).ier := by
  cases d <;> cases e <;> rfl
@[simp] theorem withIsr_bank_isr (s : State) (d : Dir) (v : Word) : ((s.withIsr d v).bank d).isr = v := by cases d <;> rfl
@[simp] theorem withIsr_bank_hw (s : State) (d : Dir) (v : Word) (e : Dir) : ((s.withIsr d v).bank e).hw = (s.bank e).hw := by
  cases d <;> cases e <;> rfl
@[simp] theorem withIsr_bank_sw (s : State) (d : Dir) (v : Word) (e : Dir) : ((s.withIsr d v).bank e).sw = (s.bank e).sw := by
  cases d <;> cases e <;> rfl
@[simp] theorem withIsr_bank_base (s : State) (d : Dir) (v : Word) (e : Dir) : ((s.withIsr d v).bank e).base = (s.bank e).base := by
  cases d <;> cases e <;> rfl
theorem withIsr_bank_other (s : State) (d : Dir) (v : Word) {e : Dir} (h : e ≠ d) : (s.withIsr d v).bank e = s.bank e :=
  setBank_bank_other s _ h

/-! ### `withHw` -/

@[simp] theorem withHw_cfg (s : State) (d : Dir) (n : Lane) (v : Word) : (s.withHw d n v).cfg = s.cfg := by cases d <;> rfl
@[simp] theorem withHw_bufSz (s : State) (d : Dir) (n : Lane) (v : Word) : (s.withHw d n v).bufSz = s.bufSz := by cases d <;> rfl
@[simp] theorem withHw_rxTimeout (s : State) (d : Dir) (n : Lane) (v : Word) : (s.withHw d n v).rxTimeout = s.rxTimeout := by cases d <;> rfl
@[simp] theorem withHw_txMoved (s : State) (d : Dir) (n : Lane) (v : Word) : (s.withHw d n v).txMoved = s.txMoved := by cases d <;> rfl
@[simp] theorem withHw_attached (s : State) (d : Dir) (n : Lane) (v : Word) : (s.withHw d n v).attached = s.attached := by cases d <;> rfl
@[simp] theorem withHw_txChan (s : State) (d : Dir) (n : Lane) (v : Word) : (s.withHw d n v).txChan = s.txChan := by cases d <;> rfl
@[simp] theorem withHw_rxChan (s : State) (d : Dir) (n : Lane) (v : Word) : (s.withHw d n v).rxChan = s.rxChan := by cases d <;> rfl
@[simp] theorem withHw_txBuf (s : State) (d : Dir) (n : Lane) (v : Word) : (s.withHw d n v).txBuf = s.txBuf := by cases d <;> rfl
@[simp] theorem withHw_hist (s : State) (d : Dir) (n : Lane) (v : Word) : (s.withHw d n v).hist = s.hist := by cases d <;> rfl
@[simp] theorem withHw_cur (s : State) (d : Dir) (n : Lane) (v : Word) : (s.withHw d n v).cur = s.cur := by cases d <;> rfl
@[simp] theorem withHw_faulted (s : State) (d : Dir) (n : Lane) (v : Word) : (s.withHw d n v).faulted = s.faulted := by cases d <;> rfl
@[simp] theorem withHw_refused (s : State) (d : Dir) (n : Lane) (v : Word) : (s.withHw d n v).refused = s.refused := by cases d <;> rfl
@[simp] theorem withHw_mem (s : State) (d : Dir) (n : Lane) (v : Word) : (s.withHw d n v).mem = s.mem := by cases d <;> rfl
@[simp] theorem withHw_inbox (s : State) (d : Dir) (n : Lane) (v : Word) : (s.withHw d n v).inbox = s.inbox := by cases d <;> rfl
@[simp] theorem withHw_sched (s : State) (d : Dir) (n : Lane) (v : Word) : (s.withHw d n v).sched = s.sched := by cases d <;> rfl
@[simp] theorem withHw_draws (s : State) (d : Dir) (n : Lane) (v : Word) : (s.withHw d n v).draws = s.draws := by cases d <;> rfl
@[simp] theorem withHw_readData (s : State) (d : Dir) (n : Lane) (v : Word) : (s.withHw d n v).readData = s.readData := by cases d <;> rfl
@[simp] theorem withHw_seen (s : State) (d : Dir) (n : Lane) (v : Word) : (s.withHw d n v).seen = s.seen := by cases d <;> rfl
@[simp] theorem withHw_pace (s : State) (d : Dir) (n : Lane) (v : Word) : (s.withHw d n v).pace = s.pace := by cases d <;> rfl
@[simp] theorem withHw_chan (s : State) (d : Dir) (n : Lane) (v : Word) (e : Dir) (m : Lane) : (s.withHw d n v).chan e m = s.chan e m := by
  cases d <;> cases e <;> rfl
@[simp] theorem withHw_buf (s : State) (d : Dir) (n : Lane) (v : Word) (e : Dir) (m : Lane) : (s.withHw d n v).buf e m = s.buf e m := by
  cases d <;> cases e <;> rfl
@[simp] theorem withHw_bank_en (s : State) (d : Dir) (n : Lane) (v : Word) (e : Dir) : ((s.withHw d n v).bank e).en = (s.bank e).en := by
  cases d <;> cases e <;> rfl
@[simp] theorem withHw_bank_rst (s : State) (d : Dir) (n : Lane) (v : Word) (e : Dir) : ((s.withHw d n v).bank e).rst = (s.bank e).rst := by
  cases d <;> cases e <;> rfl
@[simp] theorem withHw_bank_ier (s : State) (d : Dir) (n : Lane) (v : Word) (e : Dir) : ((s.withHw d n v).bank e).ier = (s.bank e).ier := by
  cases d <;> cases e <;> rfl
@[simp] theorem withHw_bank_isr (s : State) (d : Dir) (n : Lane) (v : Word) (e : Dir) : ((s.withHw d n v).bank e).isr = (s.bank e).isr := by
  cases d <;> cases e <;> rfl
@[simp] theorem withHw_bank_hw (s : State) (d : Dir) (n : Lane) (v : Word) : ((s.withHw d n v).bank d).hw = (s.bank d).hw.set n.val v := by cases d <;> rfl
@[simp] theorem withHw_bank_sw (s : State) (d : Dir) (n : Lane) (v : Word) (e : Dir) : ((s.withHw d n v).bank e).sw = (s.bank e).sw := by
  cases d <;> cases e <;> rfl
@[simp] theorem withHw_bank_base (s : State) (d : Dir) (n : Lane) (v : Word) (e : Dir) : ((s.withHw d n v).bank e).base = (s.bank e).base := by
  cases d <;> cases e <;> rfl
theorem withHw_bank_other (s : State) (d : Dir) (n : Lane) (v : Word) {e : Dir} (h : e ≠ d) : (s.withHw d n v).bank e = s.bank e :=
  setBank_bank_other s _ h

/-! ### `withSw` -/

@[simp] theorem withSw_cfg (s : State) (d : Dir) (n : Lane) (v : Word) : (s.withSw d n v).cfg = s.cfg := by cases d <;> rfl
@[simp] theorem withSw_bufSz (s : State) (d : Dir) (n : Lane) (v : Word) : (s.withSw d n v).bufSz = s.bufSz := by cases d <;> rfl
@[simp] theorem withSw_rxTimeout (s : State) (d : Dir) (n : Lane) (v : Word) : (s.withSw d n v).rxTimeout = s.rxTimeout := by cases d <;> rfl
@[simp] theorem withSw_txMoved (s : State) (d : Dir) (n : Lane) (v : Word) : (s.withSw d n v).txMoved = s.txMoved := by cases d <;> rfl
@[simp] theorem withSw_attached (s : State) (d : Dir) (n : Lane) (v : Word) : (s.withSw d n v).attached = s.attached := by cases d <;> rfl
@[simp] theorem withSw_txChan (s : State) (d : Dir) (n : Lane) (v : Word) : (s.withSw d n v).txChan = s.txChan := by cases d <;> rfl
@[simp] theorem withSw_rxChan (s : State) (d : Dir) (n : Lane) (v : Word) : (s.withSw d n v).rxChan = s.rxChan := by cases d <;> rfl
@[simp] theorem withSw_txBuf (s : State) (d : Dir) (n : Lane) (v : Word) : (s.withSw d n v).txBuf = s.txBuf := by cases d <;> rfl
@[simp] theorem withSw_hist (s : State) (d : Dir) (n : Lane) (v : Word) : (s.withSw d n v).hist = s.hist := by cases d <;> rfl
@[simp] theorem withSw_cur (s : State) (d : Dir) (n : Lane) (v : Word) : (s.withSw d n v).cur = s.cur := by cases d <;> rfl
@[simp] theorem withSw_faulted (s : State) (d : Dir) (n : Lane) (v : Word) : (s.withSw d n v).faulted = s.faulted := by cases d <;> rfl
@[simp] theorem withSw_refused (s : State) (d : Dir) (n : Lane) (v : Word) : (s.withSw d n v).refused = s.refused := by cases d <;> rfl
@[simp] theorem withSw_mem (s : State) (d : Dir) (n : Lane) (v : Word) : (s.withSw d n v).mem = s.mem := by cases d <;> rfl
@[simp] theorem withSw_inbox (s : State) (d : Dir) (n : Lane) (v : Word) : (s.withSw d n v).inbox = s.inbox := by cases d <;> rfl
@[simp] theorem withSw_sched (s : State) (d : Dir) (n : Lane) (v : Word) : (s.withSw d n v).sched = s.sched := by cases d <;> rfl
@[simp] theorem withSw_draws (s : State) (d : Dir) (n : Lane) (v : Word) : (s.withSw d n v).draws = s.draws := by cases d <;> rfl
@[simp] theorem withSw_readData (s : State) (d : Dir) (n : Lane) (v : Word) : (s.withSw d n v).readData = s.readData := by cases d <;> rfl
@[simp] theorem withSw_seen (s : State) (d : Dir) (n : Lane) (v : Word) : (s.withSw d n v).seen = s.seen := by cases d <;> rfl
@[simp] theorem withSw_pace (s : State) (d : Dir) (n : Lane) (v : Word) : (s.withSw d n v).pace = s.pace := by cases d <;> rfl
@[simp] theorem withSw_chan (s : State) (d : Dir) (n : Lane) (v : Word) (e : Dir) (m : Lane) : (s.withSw d n v).chan e m = s.chan e m := by
  cases d <;> cases e <;> rfl
@[simp] theorem withSw_buf (s : State) (d : Dir) (n : Lane) (v : Word) (e : Dir) (m : Lane) : (s.withSw d n v).buf e m = s.buf e m := by
  cases d <;> cases e <;> rfl
@[simp] theorem withSw_bank_en (s : State) (d : Dir) (n : Lane) (v : Word) (e : Dir) : ((s.withSw d n v).bank e).en = (s.bank e).en := by
  cases d <;> cases e <;> rfl
@[simp] theorem withSw_bank_rst (s : State) (d : Dir) (n : Lane) (v : Word) (e : Dir) : ((s.withSw d n v).bank e).rst = (s.bank e).rst := by
  cases d <;> cases e <;> rfl
@[simp] theorem withSw_bank_ier (s : State) (d : Dir) (n : Lane) (v : Word) (e : Dir) : ((s.withSw d n v).bank e).ier = (s.bank e).ier := by
  cases d <;> cases e <;> rfl
@[simp] theorem withSw_bank_isr (s : State) (d : Dir) (n : Lane) (v : Word) (e : Dir) : ((s.withSw d n v).bank e).isr = (s.bank e).isr := by
  cases d <;> cases e <;> rfl
@[simp] theorem withSw_bank_hw (s : State) (d : Dir) (n : Lane) (v : Word) (e : Dir) : ((s.withSw d n v).bank e).hw = (s.bank e).hw := by
  cases d <;> cases e <;> rfl
@[simp] theorem withSw_bank_sw (s : State) (d : Dir) (n : Lane) (v : Word) : ((s.withSw d n v).bank d).sw = (s.bank d).sw.set n.val v := by cases d <;> rfl
@[simp] theorem withSw_bank_base (s : State) (d : Dir) (n : Lane) (v : Word) (e : Dir) : ((s.withSw d n v).bank e).base = (s.bank e).base := by
  cases d <;> cases e <;> rfl
theorem withSw_bank_other (s : State) (d : Dir) (n : Lane) (v : Word) {e : Dir} (h : e ≠ d) : (s.withSw d n v).bank e = s.bank e :=
  setBank_bank_other s _ h

/-! ### `withBase` -/

@[simp] theorem withBase_cfg (s : State) (d : Dir) (n : Lane) (v : Word) : (s.withBase d n v).cfg = s.cfg := by cases d <;> rfl
@[simp] theorem withBase_bufSz (s : State) (d : Dir) (n : Lane) (v : Word) : (s.withBase d n v).bufSz = s.bufSz := by cases d <;> rfl
@[simp] theorem withBase_rxTimeout (s : State) (d : Dir) (n : Lane) (v : Word) : (s.withBase d n v).rxTimeout = s.rxTimeout := by cases d <;> rfl
@[simp] theorem withBase_txMoved (s : State) (d : Dir) (n : Lane) (v : Word) : (s.withBase d n v).txMoved = s.txMoved := by cases d <;> rfl
@[simp] theorem withBase_attached (s : State) (d : Dir) (n : Lane) (v : Word) : (s.withBase d n v).attached = s.attached := by cases d <;> rfl
@[simp] theorem withBase_txChan (s : State) (d : Dir) (n : Lane) (v : Word) : (s.withBase d n v).txChan = s.txChan := by cases d <;> rfl
@[simp] theorem withBase_rxChan (s : State) (d : Dir) (n : Lane) (v : Word) : (s.withBase d n v).rxChan = s.rxChan := by cases d <;> rfl
@[simp] theorem withBase_txBuf (s : State) (d : Dir) (n : Lane) (v : Word) : (s.withBase d n v).txBuf = s.txBuf := by cases d <;> rfl
@[simp] theorem withBase_hist (s : State) (d : Dir) (n : Lane) (v : Word) : (s.withBase d n v).hist = s.hist := by cases d <;> rfl
@[simp] theorem withBase_cur (s : State) (d : Dir) (n : Lane) (v : Word) : (s.withBase d n v).cur = s.cur := by cases d <;> rfl
@[simp] theorem withBase_faulted (s : State) (d : Dir) (n : Lane) (v : Word) : (s.withBase d n v).faulted = s.faulted := by cases d <;> rfl
@[simp] theorem withBase_refused (s : State) (d : Dir) (n : Lane) (v : Word) : (s.withBase d n v).refused = s.refused := by cases d <;> rfl
@[simp] theorem withBase_mem (s : State) (d : Dir) (n : Lane) (v : Word) : (s.withBase d n v).mem = s.mem := by cases d <;> rfl
@[simp] theorem withBase_inbox (s : State) (d : Dir) (n : Lane) (v : Word) : (s.withBase d n v).inbox = s.inbox := by cases d <;> rfl
@[simp] theorem withBase_sched (s : State) (d : Dir) (n : Lane) (v : Word) : (s.withBase d n v).sched = s.sched := by cases d <;> rfl
@[simp] theorem withBase_draws (s : State) (d : Dir) (n : Lane) (v : Word) : (s.withBase d n v).draws = s.draws := by cases d <;> rfl
@[simp] theorem withBase_readData (s : State) (d : Dir) (n : Lane) (v : Word) : (s.withBase d n v).readData = s.readData := by cases d <;> rfl
@[simp] theorem withBase_seen (s : State) (d : Dir) (n : Lane) (v : Word) : (s.withBase d n v).seen = s.seen := by cases d <;> rfl
@[simp] theorem withBase_pace (s : State) (d : Dir) (n : Lane) (v : Word) : (s.withBase d n v).pace = s.pace := by cases d <;> rfl
@[simp] theorem withBase_chan (s : State) (d : Dir) (n : Lane) (v : Word) (e : Dir) (m : Lane) : (s.withBase d n v).chan e m = s.chan e m := by
  cases d <;> cases e <;> rfl
@[simp] theorem withBase_buf (s : State) (d : Dir) (n : Lane) (v : Word) (e : Dir) (m : Lane) : (s.withBase d n v).buf e m = s.buf e m := by
  cases d <;> cases e <;> rfl
@[simp] theorem withBase_bank_en (s : State) (d : Dir) (n : Lane) (v : Word) (e : Dir) : ((s.withBase d n v).bank e).en = (s.bank e).en := by
  cases d <;> cases e <;> rfl
@[simp] theorem withBase_bank_rst (s : State) (d : Dir) (n : Lane) (v : Word) (e : Dir) : ((s.withBase d n v).bank e).rst = (s.bank e).rst := by
  cases d <;> cases e <;> rfl
@[simp] theorem withBase_bank_ier (s : State) (d : Dir) (n : Lane) (v : Word) (e : Dir) : ((s.withBase d n v).bank e).ier = (s.bank e).ier := by
  cases d <;> cases e <;> rfl
@[simp] theorem withBase_bank_isr (s : State) (d : Dir) (n : Lane) (v : Word) (e : Dir) : ((s.withBase d n v).bank e).isr = (s.bank e).isr := by
  cases d <;> cases e <;> rfl
@[simp] theorem withBase_bank_hw (s : State) (d : Dir) (n : Lane) (v : Word) (e : Dir) : ((s.withBase d n v).bank e).hw = (s.bank e).hw := by
  cases d <;> cases e <;> rfl
@[simp] theorem withBase_bank_sw (s : State) (d : Dir) (n : Lane) (v : Word) (e : Dir) : ((s.withBase d n v).bank e).sw = (s.bank e).sw := by
  cases d <;> cases e <;> rfl
@[simp] theorem withBase_bank_base (s : State) (d : Dir) (n : Lane) (v : Word) : ((s.withBase d n v).bank d).base = (s.bank d).base.set n.val v := by cases d <;> rfl
theorem withBase_bank_other (s : State) (d : Dir) (n : Lane) (v : Word) {e : Dir} (h : e ≠ d) : (s.withBase d n v).bank e = s.bank e :=
  setBank_bank_other s _ h

/-! ### `setTxBuf` -/

@[simp] theorem setTxBuf_cfg (s : State) (n : Lane) (v : Word) : (s.setTxBuf n v).cfg = s.cfg := rfl
@[simp] theorem setTxBuf_tx (s : State) (n : Lane) (v : Word) : (s.setTxBuf n v).tx = s.tx := rfl
@[simp] theorem setTxBuf_rx (s : State) (n : Lane) (v : Word) : (s.setTxBuf n v).rx = s.rx := rfl
@[simp] theorem setTxBuf_bufSz (s : State) (n : Lane) (v : Word) : (s.setTxBuf n v).bufSz = s.bufSz := rfl
@[simp] theorem setTxBuf_rxTimeout (s : State) (n : Lane) (v : Word) : (s.setTxBuf n v).rxTimeout = s.rxTimeout := rfl
@[simp] theorem setTxBuf_txMoved (s : State) (n : Lane) (v : Word) : (s.setTxBuf n v).txMoved = s.txMoved := rfl
@[simp] theorem setTxBuf_attached (s : State) (n : Lane) (v : Word) : (s.setTxBuf n v).attached = s.attached := rfl
@[simp] theorem setTxBuf_txChan (s : State) (n : Lane) (v : Word) : (s.setTxBuf n v).txChan = s.txChan := rfl
@[simp] theorem setTxBuf_rxChan (s : State) (n : Lane) (v : Word) : (s.setTxBuf n v).rxChan = s.rxChan := rfl
@[simp] theorem setTxBuf_txBuf (s : State) (n : Lane) (v : Word) : (s.setTxBuf n v).txBuf = s.txBuf.set n.val v := rfl
@[simp] theorem setTxBuf_hist (s : State) (n : Lane) (v : Word) : (s.setTxBuf n v).hist = s.hist := rfl
@[simp] theorem setTxBuf_cur (s : State) (n : Lane) (v : Word) : (s.setTxBuf n v).cur = s.cur := rfl
@[simp] theorem setTxBuf_faulted (s : State) (n : Lane) (v : Word) : (s.setTxBuf n v).faulted = s.faulted := rfl
@[simp] theorem setTxBuf_refused (s : State) (n : Lane) (v : Word) : (s.setTxBuf n v).refused = s.refused := rfl
@[simp] theorem setTxBuf_mem (s : State) (n : Lane) (v : Word) : (s.setTxBuf n v).mem = s.mem := rfl
@[simp] theorem setTxBuf_inbox (s : State) (n : Lane) (v : Word) : (s.setTxBuf n v).inbox = s.inbox := rfl
@[simp] theorem setTxBuf_sched (s : State) (n : Lane) (v : Word) : (s.setTxBuf n v).sched = s.sched := rfl
@[simp] theorem setTxBuf_draws (s : State) (n : Lane) (v : Word) : (s.setTxBuf n v).draws = s.draws := rfl
@[simp] theorem setTxBuf_readData (s : State) (n : Lane) (v : Word) : (s.setTxBuf n v).readData = s.readData := rfl
@[simp] theorem setTxBuf_seen (s : State) (n : Lane) (v : Word) : (s.setTxBuf n v).seen = s.seen := rfl
@[simp] theorem setTxBuf_pace (s : State) (n : Lane) (v : Word) : (s.setTxBuf n v).pace = s.pace := rfl
@[simp] theorem setTxBuf_bank (s : State) (n : Lane) (v : Word) (e : Dir) : (s.setTxBuf n v).bank e = s.bank e := by
  cases e <;> rfl
@[simp] theorem setTxBuf_chan (s : State) (n : Lane) (v : Word) (e : Dir) (m : Lane) :
    (s.setTxBuf n v).chan e m = s.chan e m := by cases e <;> rfl

/-! ### `setMem` -/

@[simp] theorem setMem_cfg (s : State) (m : Memory) : (s.setMem m).cfg = s.cfg := rfl
@[simp] theorem setMem_tx (s : State) (m : Memory) : (s.setMem m).tx = s.tx := rfl
@[simp] theorem setMem_rx (s : State) (m : Memory) : (s.setMem m).rx = s.rx := rfl
@[simp] theorem setMem_bufSz (s : State) (m : Memory) : (s.setMem m).bufSz = s.bufSz := rfl
@[simp] theorem setMem_rxTimeout (s : State) (m : Memory) : (s.setMem m).rxTimeout = s.rxTimeout := rfl
@[simp] theorem setMem_txMoved (s : State) (m : Memory) : (s.setMem m).txMoved = s.txMoved := rfl
@[simp] theorem setMem_attached (s : State) (m : Memory) : (s.setMem m).attached = s.attached := rfl
@[simp] theorem setMem_txChan (s : State) (m : Memory) : (s.setMem m).txChan = s.txChan := rfl
@[simp] theorem setMem_rxChan (s : State) (m : Memory) : (s.setMem m).rxChan = s.rxChan := rfl
@[simp] theorem setMem_txBuf (s : State) (m : Memory) : (s.setMem m).txBuf = s.txBuf := rfl
@[simp] theorem setMem_hist (s : State) (m : Memory) : (s.setMem m).hist = s.hist := rfl
@[simp] theorem setMem_cur (s : State) (m : Memory) : (s.setMem m).cur = s.cur := rfl
@[simp] theorem setMem_faulted (s : State) (m : Memory) : (s.setMem m).faulted = s.faulted := rfl
@[simp] theorem setMem_refused (s : State) (m : Memory) : (s.setMem m).refused = s.refused := rfl
@[simp] theorem setMem_mem (s : State) (m : Memory) : (s.setMem m).mem = m := rfl
@[simp] theorem setMem_inbox (s : State) (m : Memory) : (s.setMem m).inbox = s.inbox := rfl
@[simp] theorem setMem_sched (s : State) (m : Memory) : (s.setMem m).sched = s.sched := rfl
@[simp] theorem setMem_draws (s : State) (m : Memory) : (s.setMem m).draws = s.draws := rfl
@[simp] theorem setMem_readData (s : State) (m : Memory) : (s.setMem m).readData = s.readData := rfl
@[simp] theorem setMem_seen (s : State) (m : Memory) : (s.setMem m).seen = s.seen := rfl
@[simp] theorem setMem_pace (s : State) (m : Memory) : (s.setMem m).pace = s.pace := rfl
@[simp] theorem setMem_bank (s : State) (m : Memory) (d : Dir) : (s.setMem m).bank d = s.bank d := by cases d <;> rfl
@[simp] theorem setMem_chan (s : State) (m : Memory) (d : Dir) (n : Lane) : (s.setMem m).chan d n = s.chan d n := by cases d <;> rfl
@[simp] theorem setMem_buf (s : State) (m : Memory) (d : Dir) (n : Lane) : (s.setMem m).buf d n = s.buf d n := by cases d <;> rfl

/-! ### `setHist` -/

@[simp] theorem setHist_cfg (s : State) (m : List Event) : (s.setHist m).cfg = s.cfg := rfl
@[simp] theorem setHist_tx (s : State) (m : List Event) : (s.setHist m).tx = s.tx := rfl
@[simp] theorem setHist_rx (s : State) (m : List Event) : (s.setHist m).rx = s.rx := rfl
@[simp] theorem setHist_bufSz (s : State) (m : List Event) : (s.setHist m).bufSz = s.bufSz := rfl
@[simp] theorem setHist_rxTimeout (s : State) (m : List Event) : (s.setHist m).rxTimeout = s.rxTimeout := rfl
@[simp] theorem setHist_txMoved (s : State) (m : List Event) : (s.setHist m).txMoved = s.txMoved := rfl
@[simp] theorem setHist_attached (s : State) (m : List Event) : (s.setHist m).attached = s.attached := rfl
@[simp] theorem setHist_txChan (s : State) (m : List Event) : (s.setHist m).txChan = s.txChan := rfl
@[simp] theorem setHist_rxChan (s : State) (m : List Event) : (s.setHist m).rxChan = s.rxChan := rfl
@[simp] theorem setHist_txBuf (s : State) (m : List Event) : (s.setHist m).txBuf = s.txBuf := rfl
@[simp] theorem setHist_hist (s : State) (m : List Event) : (s.setHist m).hist = m := rfl
@[simp] theorem setHist_cur (s : State) (m : List Event) : (s.setHist m).cur = s.cur := rfl
@[simp] theorem setHist_faulted (s : State) (m : List Event) : (s.setHist m).faulted = s.faulted := rfl
@[simp] theorem setHist_refused (s : State) (m : List Event) : (s.setHist m).refused = s.refused := rfl
@[simp] theorem setHist_mem (s : State) (m : List Event) : (s.setHist m).mem = s.mem := rfl
@[simp] theorem setHist_inbox (s : State) (m : List Event) : (s.setHist m).inbox = s.inbox := rfl
@[simp] theorem setHist_sched (s : State) (m : List Event) : (s.setHist m).sched = s.sched := rfl
@[simp] theorem setHist_draws (s : State) (m : List Event) : (s.setHist m).draws = s.draws := rfl
@[simp] theorem setHist_readData (s : State) (m : List Event) : (s.setHist m).readData = s.readData := rfl
@[simp] theorem setHist_seen (s : State) (m : List Event) : (s.setHist m).seen = s.seen := rfl
@[simp] theorem setHist_pace (s : State) (m : List Event) : (s.setHist m).pace = s.pace := rfl
@[simp] theorem setHist_bank (s : State) (m : List Event) (d : Dir) : (s.setHist m).bank d = s.bank d := by cases d <;> rfl
@[simp] theorem setHist_chan (s : State) (m : List Event) (d : Dir) (n : Lane) : (s.setHist m).chan d n = s.chan d n := by cases d <;> rfl
@[simp] theorem setHist_buf (s : State) (m : List Event) (d : Dir) (n : Lane) : (s.setHist m).buf d n = s.buf d n := by cases d <;> rfl

end Sys2Proof.Machine
end

