-- ==== Sys2Proof/Laws/Parts.lean ====
section
/-! SUPPORT. Two views of a state that pass through every update: the control part (what lane agents never
write) and, while no lane-agent step is scheduled, the state without `cur`. A sequence of updates is
compared in either view by rewriting. -/

namespace Sys2Proof.Machine

/-- A state without the running command and what it has read. -/
def quietPart (s : State) : State := { s with cur := none, seen := [] }

/-! ### The schedule -/

@[simp] theorem laneSteps_sched (l : List LaneStep) : ∀ s : State, (laneSteps s l).sched = s.sched := by
  induction l with
  | nil => intro s; rfl
  | cons a l ih =>
    intro s
    refine (ih (laneStep s a)).trans ?_
    cases a with
    | rxByte n b => simp only [laneStep, rxByteStep]; split <;> rfl
    | txByte n => simp only [laneStep, txByteStep]; split <;> rfl
    | status d n => cases d <;> simp only [laneStep, statusStep] <;> split <;> rfl
    | corrupt d n v => simp only [laneStep, corruptStep]; split <;> simp

/-- Each boundary uses up one slot. -/
@[simp] theorem boundary_sched (s : State) : (boundary s).sched = s.sched.tail := by
  simp only [boundary, advanceCur_sched, interleave]
  split <;> simp [*]

/-- What the first boundary of a command leaves of the registers. -/
@[simp] theorem boundary_beginCommand_bank (i : Instr) (s : State) (d : Dir) :
    (boundary (beginCommand i s)).bank d = (interleave s).bank d := by
  simp [boundary, interleave_beginCommand]

/-! ### The quiet part -/

theorem quietPart_boundary {s : State} (h : s.sched = []) : quietPart (boundary s) = quietPart s := by
  simp [boundary_quiet h, quietPart, advanceCur]

theorem quietPart_eq_endCommand {i : Instr} {r : Ret} {s t : State} (h : quietPart s = quietPart t) :
    endCommand i r s = endCommand i r t := by
  have : ∀ x, endCommand i r x = endCommand i r (quietPart x) := fun _ => rfl
  rw [this s, this t, h]

@[simp] theorem quietPart_hist (s : State) : (quietPart s).hist = s.hist := rfl
@[simp] theorem quietPart_chan (s : State) (d : Dir) (n : Lane) : (quietPart s).chan d n = s.chan d n := by
  cases d <;> rfl
@[simp] theorem quietPart_bank (s : State) (d : Dir) : (quietPart s).bank d = s.bank d := by cases d <;> rfl
@[simp] theorem quietPart_buf (s : State) (d : Dir) (n : Lane) : (quietPart s).buf d n = s.buf d n := by
  cases d <;> rfl
@[simp] theorem quietPart_cfg (s : State) : (quietPart s).cfg = s.cfg := rfl
@[simp] theorem quietPart_beginCommand (i : Instr) (s : State) :
    quietPart (beginCommand i s) = quietPart s := rfl
@[simp] theorem quietPart_log (s : State) (e : Event) : quietPart (s.log e) = (quietPart s).log e := rfl
@[simp] theorem quietPart_dropReserved (s : State) :
    quietPart (dropReserved s) = dropReserved (quietPart s) := rfl
@[simp] theorem quietPart_dropAccepted (s : State) :
    quietPart (dropAccepted s) = dropAccepted (quietPart s) := rfl
@[simp] theorem quietPart_dropStream (s : State) :
    quietPart (dropStream s) = dropStream (quietPart s) := rfl
@[simp] theorem quietPart_withEn (s : State) (d : Dir) (v : Word) :
    quietPart (s.withEn d v) = (quietPart s).withEn d v := by cases d <;> rfl
@[simp] theorem quietPart_withRst (s : State) (d : Dir) (v : Word) :
    quietPart (s.withRst d v) = (quietPart s).withRst d v := by cases d <;> rfl
@[simp] theorem quietPart_withIer (s : State) (d : Dir) (v : Word) :
    quietPart (s.withIer d v) = (quietPart s).withIer d v := by cases d <;> rfl
@[simp] theorem quietPart_withIsr (s : State) (d : Dir) (v : Word) :
    quietPart (s.withIsr d v) = (quietPart s).withIsr d v := by cases d <;> rfl
@[simp] theorem quietPart_withHw (s : State) (d : Dir) (n : Lane) (v : Word) :
    quietPart (s.withHw d n v) = (quietPart s).withHw d n v := by cases d <;> rfl
@[simp] theorem quietPart_withSw (s : State) (d : Dir) (n : Lane) (v : Word) :
    quietPart (s.withSw d n v) = (quietPart s).withSw d n v := by cases d <;> rfl
@[simp] theorem quietPart_withBase (s : State) (d : Dir) (n : Lane) (v : Word) :
    quietPart (s.withBase d n v) = (quietPart s).withBase d n v := by cases d <;> rfl
@[simp] theorem quietPart_withStill (s : State) (d : Dir) (n : Lane) :
    quietPart (s.withStill d n) = (quietPart s).withStill d n := by cases d <;> rfl
@[simp] theorem quietPart_setChan (s : State) (d : Dir) (n : Lane) (c : Chan) :
    quietPart (s.setChan d n c) = (quietPart s).setChan d n c := by cases d <;> rfl
@[simp] theorem quietPart_setMem (s : State) (m : Memory) :
    quietPart (s.setMem m) = (quietPart s).setMem m := rfl
@[simp] theorem quietPart_setHist (s : State) (h : List Event) :
    quietPart (s.setHist h) = (quietPart s).setHist h := rfl
@[simp] theorem quietPart_setTxBuf (s : State) (n : Lane) (v : Word) :
    quietPart (s.setTxBuf n v) = (quietPart s).setTxBuf n v := rfl
@[simp] theorem quietPart_assertReset (s : State) (d : Dir) (v : Word) :
    quietPart (assertReset s d v) = assertReset (quietPart s) d v := by cases d <;> rfl
@[simp] theorem quietPart_pulsed (s : State) (d : Dir) (n : Lane) :
    quietPart (pulsed s d n) = pulsed (quietPart s) d n := by simp [pulsed]

/-! ### The control part -/

@[simp] theorem controlPart_beginCommand (i : Instr) (s : State) :
    controlPart (beginCommand i s) = controlPart s := rfl
@[simp] theorem controlPart_endCommand (i : Instr) (r : Ret) (s : State) :
    controlPart (endCommand i r s) = controlPart s := rfl
@[simp] theorem controlPart_log (s : State) (e : Event) : controlPart (s.log e) = controlPart s := rfl
@[simp] theorem controlPart_dropReserved (s : State) : controlPart (dropReserved s) = controlPart s := rfl
@[simp] theorem controlPart_dropAccepted (s : State) : controlPart (dropAccepted s) = controlPart s := rfl
@[simp] theorem controlPart_dropStream (s : State) : controlPart (dropStream s) = controlPart s := rfl
@[simp] theorem controlPart_setMem (s : State) (m : Memory) :
    controlPart (s.setMem m) = controlPart s := rfl
@[simp] theorem controlPart_setHist (s : State) (h : List Event) :
    controlPart (s.setHist h) = controlPart s := rfl
@[simp] theorem controlPart_withEn (s : State) (d : Dir) (v : Word) :
    controlPart (s.withEn d v) = (controlPart s).withEn d v := by cases d <;> rfl
@[simp] theorem controlPart_withRst (s : State) (d : Dir) (v : Word) :
    controlPart (s.withRst d v) = (controlPart s).withRst d v := by cases d <;> rfl
@[simp] theorem controlPart_withIer (s : State) (d : Dir) (v : Word) :
    controlPart (s.withIer d v) = (controlPart s).withIer d v := by cases d <;> rfl
@[simp] theorem controlPart_withIsr (s : State) (d : Dir) (v : Word) :
    controlPart (s.withIsr d v) = controlPart s := by cases d <;> rfl
@[simp] theorem controlPart_withHw (s : State) (d : Dir) (n : Lane) (v : Word) :
    controlPart (s.withHw d n v) = controlPart s := by cases d <;> rfl
@[simp] theorem controlPart_withSw (s : State) (d : Dir) (n : Lane) (v : Word) :
    controlPart (s.withSw d n v) = (controlPart s).withSw d n v := by cases d <;> rfl
@[simp] theorem controlPart_withBase (s : State) (d : Dir) (n : Lane) (v : Word) :
    controlPart (s.withBase d n v) = (controlPart s).withBase d n v := by cases d <;> rfl
@[simp] theorem controlPart_withStill (s : State) (d : Dir) (n : Lane) :
    controlPart (s.withStill d n) = controlPart s := by cases d <;> rfl
@[simp] theorem controlPart_setChan (s : State) (d : Dir) (n : Lane) (c : Chan) :
    controlPart (s.setChan d n c) = (controlPart s).setChan d n c := by cases d <;> rfl

@[simp] theorem controlPart_setTxBuf (s : State) (n : Lane) (v : Word) :
    controlPart (s.setTxBuf n v) = (controlPart s).setTxBuf n v := rfl

/-- The software pointers a reset write leaves, and the reset bits. -/
def State.resetSw (s : State) (d : Dir) (v : Word) : State :=
  s.setBank d { s.bank d with sw := ((s.bank d).zeroPointers v).sw, rst := v }

@[simp] theorem controlPart_assertReset (s : State) (d : Dir) (v : Word) :
    controlPart (assertReset s d v) = (controlPart s).resetSw d v := by cases d <;> rfl

/-! ### Reset pulses -/

theorem zeroed_laneBit {α : Type} (w : Vector α 32) (n : Lane) (x : α) :
    (tabulate fun m => if testLane (laneBit n) m then x else w[m.val]) = w.set n.val x := by
  apply lane_ext
  intro m
  simp [testLane_laneBit, lane_set_get]

theorem zeroed_none {α : Type} (w : Vector α 32) (x : α) :
    (tabulate fun m => if testLane 0#32 m then x else w[m.val]) = w := by
  apply lane_ext
  intro m
  simp

theorem zeroPointers_zero (b : Bank) : b.zeroPointers 0#32 = b := by
  rw [Bank.zeroPointers, zeroed_none, zeroed_none]

theorem zeroPointers_laneBit (b : Bank) (n : Lane) :
    b.zeroPointers (laneBit n) = (b.setHw n 0).setSw n 0 := by
  rw [Bank.zeroPointers, zeroed_laneBit, zeroed_laneBit]
  rfl

theorem clearMoved_zero (m : Vector Bool 32) : clearMoved m 0#32 = m := zeroed_none m false

theorem clearMoved_laneBit (m : Vector Bool 32) (n : Lane) :
    clearMoved m (laneBit n) = m.set n.val false := zeroed_laneBit m n false

/-- The two writes of a pulse leave the pulsed state. -/
@[simp] theorem assertReset_pulse (s : State) (d : Dir) (n : Lane) :
    assertReset (assertReset s d (laneBit n)) d 0#32 = pulsed s d n := by
  cases d <;>
    simp [assertReset, zeroPointers_zero, zeroPointers_laneBit, clearMoved_zero, clearMoved_laneBit,
      pulsed, State.withRst, State.withHw, State.withSw, State.withStill, State.setBank, State.bank,
      Bank.setHw, Bank.setSw]

@[simp] theorem resetSw_pulse (s : State) (d : Dir) (n : Lane) :
    (s.resetSw d (laneBit n)).resetSw d 0#32 = (s.withRst d 0).withSw d n 0 := by
  cases d <;>
    simp [State.resetSw, zeroPointers_zero, zeroPointers_laneBit, State.withRst, State.withSw,
      State.setBank, State.bank, Bank.setSw, Bank.setHw]

@[simp] theorem controlPart_pulsed (s : State) (d : Dir) (n : Lane) :
    controlPart (pulsed s d n) = ((controlPart s).withRst d 0).withSw d n 0 := by simp [pulsed]

/-! ### Order of updates: draws innermost, channel-table entries outermost -/

@[simp] theorem dropReserved_withEn (s : State) (d : Dir) (v : Word) :
    dropReserved (s.withEn d v) = (dropReserved s).withEn d v := by cases d <;> rfl
@[simp] theorem dropReserved_withRst (s : State) (d : Dir) (v : Word) :
    dropReserved (s.withRst d v) = (dropReserved s).withRst d v := by cases d <;> rfl
@[simp] theorem dropReserved_withIer (s : State) (d : Dir) (v : Word) :
    dropReserved (s.withIer d v) = (dropReserved s).withIer d v := by cases d <;> rfl
@[simp] theorem dropReserved_withIsr (s : State) (d : Dir) (v : Word) :
    dropReserved (s.withIsr d v) = (dropReserved s).withIsr d v := by cases d <;> rfl
@[simp] theorem dropReserved_withHw (s : State) (d : Dir) (n : Lane) (v : Word) :
    dropReserved (s.withHw d n v) = (dropReserved s).withHw d n v := by cases d <;> rfl
@[simp] theorem dropReserved_withSw (s : State) (d : Dir) (n : Lane) (v : Word) :
    dropReserved (s.withSw d n v) = (dropReserved s).withSw d n v := by cases d <;> rfl
@[simp] theorem dropReserved_withBase (s : State) (d : Dir) (n : Lane) (v : Word) :
    dropReserved (s.withBase d n v) = (dropReserved s).withBase d n v := by cases d <;> rfl
@[simp] theorem dropReserved_withStill (s : State) (d : Dir) (n : Lane) :
    dropReserved (s.withStill d n) = (dropReserved s).withStill d n := by cases d <;> rfl
@[simp] theorem dropReserved_setChan (s : State) (d : Dir) (n : Lane) (c : Chan) :
    dropReserved (s.setChan d n c) = (dropReserved s).setChan d n c := by cases d <;> rfl
@[simp] theorem dropReserved_pulsed (s : State) (d : Dir) (n : Lane) :
    dropReserved (pulsed s d n) = pulsed (dropReserved s) d n := by simp [pulsed]
@[simp] theorem dropAccepted_withEn (s : State) (d : Dir) (v : Word) :
    dropAccepted (s.withEn d v) = (dropAccepted s).withEn d v := by cases d <;> rfl
@[simp] theorem dropAccepted_withRst (s : State) (d : Dir) (v : Word) :
    dropAccepted (s.withRst d v) = (dropAccepted s).withRst d v := by cases d <;> rfl
@[simp] theorem dropAccepted_withIer (s : State) (d : Dir) (v : Word) :
    dropAccepted (s.withIer d v) = (dropAccepted s).withIer d v := by cases d <;> rfl
@[simp] theorem dropAccepted_withIsr (s : State) (d : Dir) (v : Word) :
    dropAccepted (s.withIsr d v) = (dropAccepted s).withIsr d v := by cases d <;> rfl
@[simp] theorem dropAccepted_withHw (s : State) (d : Dir) (n : Lane) (v : Word) :
    dropAccepted (s.withHw d n v) = (dropAccepted s).withHw d n v := by cases d <;> rfl
@[simp] theorem dropAccepted_withSw (s : State) (d : Dir) (n : Lane) (v : Word) :
    dropAccepted (s.withSw d n v) = (dropAccepted s).withSw d n v := by cases d <;> rfl
@[simp] theorem dropAccepted_withBase (s : State) (d : Dir) (n : Lane) (v : Word) :
    dropAccepted (s.withBase d n v) = (dropAccepted s).withBase d n v := by cases d <;> rfl
@[simp] theorem dropAccepted_withStill (s : State) (d : Dir) (n : Lane) :
    dropAccepted (s.withStill d n) = (dropAccepted s).withStill d n := by cases d <;> rfl
@[simp] theorem dropAccepted_setChan (s : State) (d : Dir) (n : Lane) (c : Chan) :
    dropAccepted (s.setChan d n c) = (dropAccepted s).setChan d n c := by cases d <;> rfl
@[simp] theorem dropAccepted_pulsed (s : State) (d : Dir) (n : Lane) :
    dropAccepted (pulsed s d n) = pulsed (dropAccepted s) d n := by simp [pulsed]
@[simp] theorem dropStream_withEn (s : State) (d : Dir) (v : Word) :
    dropStream (s.withEn d v) = (dropStream s).withEn d v := by cases d <;> rfl
@[simp] theorem dropStream_withRst (s : State) (d : Dir) (v : Word) :
    dropStream (s.withRst d v) = (dropStream s).withRst d v := by cases d <;> rfl
@[simp] theorem dropStream_withIer (s : State) (d : Dir) (v : Word) :
    dropStream (s.withIer d v) = (dropStream s).withIer d v := by cases d <;> rfl
@[simp] theorem dropStream_withIsr (s : State) (d : Dir) (v : Word) :
    dropStream (s.withIsr d v) = (dropStream s).withIsr d v := by cases d <;> rfl
@[simp] theorem dropStream_withHw (s : State) (d : Dir) (n : Lane) (v : Word) :
    dropStream (s.withHw d n v) = (dropStream s).withHw d n v := by cases d <;> rfl
@[simp] theorem dropStream_withSw (s : State) (d : Dir) (n : Lane) (v : Word) :
    dropStream (s.withSw d n v) = (dropStream s).withSw d n v := by cases d <;> rfl
@[simp] theorem dropStream_withBase (s : State) (d : Dir) (n : Lane) (v : Word) :
    dropStream (s.withBase d n v) = (dropStream s).withBase d n v := by cases d <;> rfl
@[simp] theorem dropStream_withStill (s : State) (d : Dir) (n : Lane) :
    dropStream (s.withStill d n) = (dropStream s).withStill d n := by cases d <;> rfl
@[simp] theorem dropStream_setChan (s : State) (d : Dir) (n : Lane) (c : Chan) :
    dropStream (s.setChan d n c) = (dropStream s).setChan d n c := by cases d <;> rfl
@[simp] theorem dropStream_pulsed (s : State) (d : Dir) (n : Lane) :
    dropStream (pulsed s d n) = pulsed (dropStream s) d n := by simp [pulsed]
@[simp] theorem withEn_setChan (s : State) (d : Dir) (n : Lane) (c : Chan) (e : Dir) (v : Word) :
    (s.setChan d n c).withEn e v = (s.withEn e v).setChan d n c := by cases d <;> cases e <;> rfl
@[simp] theorem withRst_setChan (s : State) (d : Dir) (n : Lane) (c : Chan) (e : Dir) (v : Word) :
    (s.setChan d n c).withRst e v = (s.withRst e v).setChan d n c := by cases d <;> cases e <;> rfl
@[simp] theorem withIer_setChan (s : State) (d : Dir) (n : Lane) (c : Chan) (e : Dir) (v : Word) :
    (s.setChan d n c).withIer e v = (s.withIer e v).setChan d n c := by cases d <;> cases e <;> rfl
@[simp] theorem withIsr_setChan (s : State) (d : Dir) (n : Lane) (c : Chan) (e : Dir) (v : Word) :
    (s.setChan d n c).withIsr e v = (s.withIsr e v).setChan d n c := by cases d <;> cases e <;> rfl
@[simp] theorem withHw_setChan (s : State) (d : Dir) (n : Lane) (c : Chan) (e : Dir) (m : Lane) (v : Word) :
    (s.setChan d n c).withHw e m v = (s.withHw e m v).setChan d n c := by cases d <;> cases e <;> rfl
@[simp] theorem withSw_setChan (s : State) (d : Dir) (n : Lane) (c : Chan) (e : Dir) (m : Lane) (v : Word) :
    (s.setChan d n c).withSw e m v = (s.withSw e m v).setChan d n c := by cases d <;> cases e <;> rfl
@[simp] theorem withBase_setChan (s : State) (d : Dir) (n : Lane) (c : Chan) (e : Dir) (m : Lane) (v : Word) :
    (s.setChan d n c).withBase e m v = (s.withBase e m v).setChan d n c := by cases d <;> cases e <;> rfl
@[simp] theorem withStill_setChan (s : State) (d : Dir) (n : Lane) (c : Chan) (e : Dir) (m : Lane) :
    (s.setChan d n c).withStill e m = (s.withStill e m).setChan d n c := by cases d <;> cases e <;> rfl

@[simp] theorem setTxBuf_setChan (s : State) (d : Dir) (n m : Lane) (c : Chan) (v : Word) :
    (s.setChan d n c).setTxBuf m v = (s.setTxBuf m v).setChan d n c := by cases d <;> rfl

/-! ### The history outermost -/

@[simp] theorem withEn_setHist (s : State) (h : List Event) (d : Dir) (v : Word) :
    (s.setHist h).withEn d v = (s.withEn d v).setHist h := by cases d <;> rfl
@[simp] theorem withRst_setHist (s : State) (h : List Event) (d : Dir) (v : Word) :
    (s.setHist h).withRst d v = (s.withRst d v).setHist h := by cases d <;> rfl
@[simp] theorem withIer_setHist (s : State) (h : List Event) (d : Dir) (v : Word) :
    (s.setHist h).withIer d v = (s.withIer d v).setHist h := by cases d <;> rfl
@[simp] theorem withIsr_setHist (s : State) (h : List Event) (d : Dir) (v : Word) :
    (s.setHist h).withIsr d v = (s.withIsr d v).setHist h := by cases d <;> rfl
@[simp] theorem withHw_setHist (s : State) (h : List Event) (d : Dir) (n : Lane) (v : Word) :
    (s.setHist h).withHw d n v = (s.withHw d n v).setHist h := by cases d <;> rfl
@[simp] theorem withSw_setHist (s : State) (h : List Event) (d : Dir) (n : Lane) (v : Word) :
    (s.setHist h).withSw d n v = (s.withSw d n v).setHist h := by cases d <;> rfl
@[simp] theorem withBase_setHist (s : State) (h : List Event) (d : Dir) (n : Lane) (v : Word) :
    (s.setHist h).withBase d n v = (s.withBase d n v).setHist h := by cases d <;> rfl
@[simp] theorem withStill_setHist (s : State) (h : List Event) (d : Dir) (n : Lane) :
    (s.setHist h).withStill d n = (s.withStill d n).setHist h := by cases d <;> rfl
@[simp] theorem setChan_setHist (s : State) (h : List Event) (d : Dir) (n : Lane) (c : Chan) :
    (s.setHist h).setChan d n c = (s.setChan d n c).setHist h := by cases d <;> rfl
@[simp] theorem dropReserved_setHist (s : State) (h : List Event) :
    dropReserved (s.setHist h) = (dropReserved s).setHist h := rfl
@[simp] theorem dropAccepted_setHist (s : State) (h : List Event) :
    dropAccepted (s.setHist h) = (dropAccepted s).setHist h := rfl
@[simp] theorem dropStream_setHist (s : State) (h : List Event) :
    dropStream (s.setHist h) = (dropStream s).setHist h := rfl
@[simp] theorem setMem_setHist (s : State) (h : List Event) (m : Memory) :
    (s.setHist h).setMem m = (s.setMem m).setHist h := rfl
@[simp] theorem setHist_setHist (s : State) (h k : List Event) : (s.setHist h).setHist k = s.setHist k := rfl
@[simp] theorem pulsed_setHist (s : State) (h : List Event) (d : Dir) (n : Lane) :
    pulsed (s.setHist h) d n = (pulsed s d n).setHist h := by simp [pulsed]
theorem setHist_self (s : State) : s.setHist s.hist = s := rfl

/-- An event emitted is the history replaced. -/
theorem log_eq_setHist (s : State) (e : Event) : s.log e = s.setHist (s.hist ++ [e]) := rfl

/-! ### Repeated updates -/

@[simp] theorem setChan_setChan (s : State) (d : Dir) (n : Lane) (a b : Chan) :
    (s.setChan d n a).setChan d n b = s.setChan d n b := by cases d <;> simp [State.setChan]

@[simp] theorem setChan_self (s : State) (d : Dir) (n : Lane) : s.setChan d n (s.chan d n) = s := by
  cases d <;> simp [State.setChan, State.chan]

@[simp] theorem withSw_withSw (s : State) (d : Dir) (n : Lane) (a b : Word) :
    (s.withSw d n a).withSw d n b = s.withSw d n b := by
  cases d <;> simp [State.withSw, State.setBank, State.bank, Bank.setSw]

@[simp] theorem withHw_withHw (s : State) (d : Dir) (n : Lane) (a b : Word) :
    (s.withHw d n a).withHw d n b = s.withHw d n b := by
  cases d <;> simp [State.withHw, State.setBank, State.bank, Bank.setHw]

@[simp] theorem withEn_withEn (s : State) (d : Dir) (a b : Word) :
    (s.withEn d a).withEn d b = s.withEn d b := by cases d <;> rfl

@[simp] theorem pulsed_withSw_zero (s : State) (d : Dir) (n : Lane) :
    (pulsed s d n).withSw d n 0#32 = pulsed s d n := by
  cases d <;> simp [pulsed, State.withStill, State.withSw, State.withHw, State.withRst, State.setBank,
    State.bank, Bank.setSw, Bank.setHw]

@[simp] theorem pulsed_withHw_zero (s : State) (d : Dir) (n : Lane) :
    (pulsed s d n).withHw d n 0#32 = pulsed s d n := by
  cases d <;> simp [pulsed, State.withStill, State.withSw, State.withHw, State.withRst, State.setBank,
    State.bank, Bank.setSw, Bank.setHw]

@[simp] theorem withBase_withBase (s : State) (d : Dir) (n : Lane) (a b : Word) :
    (s.withBase d n a).withBase d n b = s.withBase d n b := by
  cases d <;> simp [State.withBase, State.setBank, State.bank, Bank.setBase]

/-! ### What equal quiet parts agree on -/

theorem quiet_cfg {s t : State} (h : quietPart t = quietPart s) : t.cfg = s.cfg := by
  have := congrArg State.cfg h
  exact this

theorem quiet_mem {s t : State} (h : quietPart t = quietPart s) : t.mem = s.mem := by
  have := congrArg State.mem h
  exact this

theorem quiet_hist {s t : State} (h : quietPart t = quietPart s) : t.hist = s.hist := by
  have := congrArg State.hist h
  exact this

theorem quiet_draws {s t : State} (h : quietPart t = quietPart s) : t.draws = s.draws := by
  have := congrArg State.draws h
  exact this

theorem quiet_sched {s t : State} (h : quietPart t = quietPart s) : t.sched = s.sched := by
  have := congrArg State.sched h
  exact this

theorem quiet_tx {s t : State} (h : quietPart t = quietPart s) : t.tx = s.tx := by
  have := congrArg State.tx h
  exact this

theorem quiet_rx {s t : State} (h : quietPart t = quietPart s) : t.rx = s.rx := by
  have := congrArg State.rx h
  exact this

theorem quiet_txMoved {s t : State} (h : quietPart t = quietPart s) : t.txMoved = s.txMoved := by
  have := congrArg State.txMoved h
  exact this

theorem quiet_attached {s t : State} (h : quietPart t = quietPart s) : t.attached = s.attached := by
  have := congrArg State.attached h
  exact this

theorem quiet_bank {s t : State} (h : quietPart t = quietPart s) (d : Dir) : t.bank d = s.bank d := by
  have := congrArg (fun x => x.bank d) h
  cases d <;> exact this

theorem quiet_chan {s t : State} (h : quietPart t = quietPart s) (d : Dir) (n : Lane) : t.chan d n = s.chan d n := by
  have := congrArg (fun x => x.chan d n) h
  cases d <;> exact this

theorem quiet_buf {s t : State} (h : quietPart t = quietPart s) (d : Dir) (n : Lane) : t.buf d n = s.buf d n := by
  have := congrArg (fun x => x.buf d n) h
  cases d <;> exact this

/-! ### What equal control parts agree on -/

theorem control_en {s t : State} (h : controlPart t = controlPart s) (d : Dir) :
    (t.bank d).en = (s.bank d).en := by
  have := congrArg (fun x => (x.bank d).en) h
  cases d <;> exact this

theorem control_rst {s t : State} (h : controlPart t = controlPart s) (d : Dir) :
    (t.bank d).rst = (s.bank d).rst := by
  have := congrArg (fun x => (x.bank d).rst) h
  cases d <;> exact this

theorem control_ier {s t : State} (h : controlPart t = controlPart s) (d : Dir) :
    (t.bank d).ier = (s.bank d).ier := by
  have := congrArg (fun x => (x.bank d).ier) h
  cases d <;> exact this

theorem control_sw {s t : State} (h : controlPart t = controlPart s) (d : Dir) :
    (t.bank d).sw = (s.bank d).sw := by
  have := congrArg (fun x => (x.bank d).sw) h
  cases d <;> exact this

theorem control_base {s t : State} (h : controlPart t = controlPart s) (d : Dir) :
    (t.bank d).base = (s.bank d).base := by
  have := congrArg (fun x => (x.bank d).base) h
  cases d <;> exact this

theorem control_chan {s t : State} (h : controlPart t = controlPart s) (d : Dir) (n : Lane) :
    t.chan d n = s.chan d n := by
  have := congrArg (fun x => x.chan d n) h
  cases d <;> exact this

theorem control_buf {s t : State} (h : controlPart t = controlPart s) (d : Dir) (n : Lane) :
    t.buf d n = s.buf d n := by
  have := congrArg (fun x => x.buf d n) h
  cases d <;> exact this

theorem control_cfg {s t : State} (h : controlPart t = controlPart s) : t.cfg = s.cfg := by
  have := congrArg State.cfg h
  exact this

theorem control_attached {s t : State} (h : controlPart t = controlPart s) : t.attached = s.attached := by
  have := congrArg State.attached h
  exact this

theorem control_bufSz {s t : State} (h : controlPart t = controlPart s) : t.bufSz = s.bufSz := by
  have := congrArg State.bufSz h
  exact this

theorem control_rxTimeout {s t : State} (h : controlPart t = controlPart s) :
    t.rxTimeout = s.rxTimeout := by
  have := congrArg State.rxTimeout h
  exact this

theorem control_txBuf {s t : State} (h : controlPart t = controlPart s) : t.txBuf = s.txBuf := by
  have := congrArg State.txBuf h
  exact this

theorem control_laneEnabled {s t : State} (h : controlPart t = controlPart s) (d : Dir) (n : Lane) :
    laneEnabled t d n = laneEnabled s d n := by simp [laneEnabled, control_en h]

theorem control_laneInReset {s t : State} (h : controlPart t = controlPart s) (d : Dir) (n : Lane) :
    laneInReset t d n = laneInReset s d n := by simp [laneInReset, control_rst h]

end Sys2Proof.Machine
end

