-- ==== Sys2Proof/Laws/Frames.lean ====
section
/-! SUPPORT. What the micro-steps of a command can do, said once (20_memory R74): each is one of the effects
listed here, whatever the command read before. From that list follow what every piece of a command keeps
(10_state R45, R48) and, in Laws/Micro.lean, what holds between any two micro-steps. -/

namespace Sys2Proof.Machine

/-! ### A property of every micro-step of a piece -/

/-- Every micro-step that `x` may take, with parameters `c` and whatever it reads, relates the state before it
to the state after it by `R`. -/
def Op.each {α : Type} (c : Params) (R : State → State → Prop) : Op α → Prop
  | .done _ => True
  | .stop _ => True
  | .config k => (k c).each c R
  | .look _ k => ∀ x, (k x).each c R
  | .access f k => (∀ s x t, s.cfg = c → f s = .ok (x, t) → R s t) ∧ ∀ x, (k x).each c R

variable {α β : Type} {c : Params} {R : State → State → Prop}

theorem each_done (a : α) : (Op.done a).each c R := trivial
theorem each_stop (r : Stop) : (Op.stop r : Op α).each c R := trivial

theorem each_bind {x : Op α} {f : α → Op β} (h : x.each c R) (k : ∀ a, (f a).each c R) :
    (x.bind f).each c R := by
  induction x with
  | done a => exact k a
  | stop r => trivial
  | config g ih => exact ih c h
  | look g m ih => exact fun x => ih x (h x)
  | access g m ih => exact ⟨h.1, fun x => ih x (h.2 x)⟩

/-- A piece that goes on with the parameters. -/
theorem each_params {f : Params → Op β} (h : (f c).each c R) : (params.bind f).each c R := h

theorem each_ite {p : Prop} [Decidable p] {x y : Op α} (h : p → x.each c R) (k : ¬p → y.each c R) :
    (if p then x else y).each c R := by
  split
  · exact h ‹_›
  · exact k ‹_›

theorem each_opWhen {b : Bool} {x : Op Unit} (h : b = true → x.each c R) : (opWhen b x).each c R := by
  cases b
  · trivial
  · exact h rfl

theorem each_faultIf (b : Bool) (r : Fault) : (faultIf b r).each c R := by cases b <;> trivial

theorem each_forEach {ι : Type} (l : List ι) {f : ι → Op Unit} (h : ∀ a, (f a).each c R) :
    (forEach l f).each c R := by
  induction l with
  | nil => trivial
  | cons a l ih => exact each_bind (h a) fun _ => ih

theorem each_mono {S : State → State → Prop} {x : Op α} (h : x.each c R) (k : ∀ s t, R s t → S s t) :
    x.each c S := by
  induction x with
  | done a => trivial
  | stop r => trivial
  | config g ih => exact ih c h
  | look g m ih => exact fun x => ih x (h x)
  | access g m ih => exact ⟨fun s x t hs e => k s t (h.1 s x t hs e), fun x => ih x (h.2 x)⟩

/-- What is left of a piece takes no other micro-steps. -/
theorem each_resume {x : Op α} (h : x.each c R) : ∀ l, (x.resume c l).each c R := by
  induction x with
  | done a => intro l; trivial
  | stop r => intro l; trivial
  | config g ih => exact ih c h
  | look g m ih =>
    intro l
    cases l with
    | nil => exact h
    | cons y l => exact ih y (h y) l
  | access g m ih =>
    intro l
    cases l with
    | nil => exact h
    | cons y l => exact ih y (h.2 y) l

/-- The state a piece leaves, whether it answers or stops. -/
def final : EStateM.Result Stop State α → State
  | .ok _ t => t
  | .error _ t => t

@[simp] theorem final_ok (a : α) (t : State) : final (.ok a t : EStateM.Result Stop State α) = t := rfl
@[simp] theorem final_error (e : Stop) (t : State) :
    final (.error e t : EStateM.Result Stop State α) = t := rfl

/-- A relation that a lane-agent slot and every micro-step of a piece keep relates the states before and
after the piece. -/
theorem each_run {x : Op α} (h : x.each c R) (refl : ∀ s, R s s) (trans : ∀ {s t u}, R s t → R t u → R s u)
    (slot : ∀ s, R s (boundary s)) (params : ∀ {s t}, R s t → t.cfg = s.cfg) :
    ∀ s, s.cfg = c → R s (final (x.run s)) := by
  induction x with
  | done a => exact fun s _ => refl s
  | stop r => exact fun s _ => refl s
  | config g ih => intro s hs; subst hs; exact ih _ h s rfl
  | look g m ih => exact fun s hs => ih _ (h _) s hs
  | access g m ih =>
    intro s hs
    simp only [Op.run]
    cases e : g (boundary s) with
    | error r => exact slot s
    | ok p =>
      have hb : R s p.2 := trans (slot s) (h.1 (boundary s) p.1 p.2 ((boundary_cfg s).trans hs) e)
      exact trans hb (ih p.1 (h.2 p.1) p.2 ((params hb).trans hs))

/-! ### The effects of micro-steps -/

/-- A change of a channel-table entry that keeps the indices in the ring. -/
def KeepsRange (c : Params) (d : Dir) (f : Chan → Chan) : Prop :=
  ∀ e : Chan, e.head < cap c d → e.tail < cap c d → (f e).head < cap c d ∧ (f e).tail < cap c d

/-- What one micro-step of a command can do, with parameters `c`. -/
inductive Effect (c : Params) : State → State → Prop where
  | read (r : Reg) (s : State) : Effect c s (afterRead r s)
  | write (r : Reg) (v : Word) {s t : State} (h : regWrite r v s = .ok t) : Effect c s t
  | entry (d : Dir) (n : Lane) (f : Chan → Chan) (h : KeepsRange c d f) (s : State) :
      Effect c s (s.setChan d n (f (s.chan d n)))
  | accepted (s : State) : Effect c s (dropAccepted s)
  | stream (s : State) : Effect c s (dropStream s)
  | event (e : Event) (s : State) : Effect c s (s.log e)
  | buffer (n : Lane) (v : Word) (s : State) : Effect c s (s.setTxBuf n v)
  | attached (b : Bool) (s : State) : Effect c s { s with attached := b }
  | byte (a : Nat) (b : Byte) (h : a < 2 ^ 32) (s : State) : Effect c s (s.setMem (memWrite s.mem a b))
  | result (i : Instr) (r : Ret) (s : State) : Effect c s (endCommand i r s)

/-- Every micro-step of a piece is such an effect. -/
abbrev Op.effects {α : Type} (c : Params) (x : Op α) : Prop := x.each c (Effect c)

theorem effects_update {f : State → State} (h : ∀ s, Effect c s (f s)) : (update f).effects c :=
  ⟨fun s x t _ e => by cases e; exact h s, fun _ => trivial⟩

theorem effects_emit (e : Event) : (emit e).effects c := effects_update fun s => .event e s

theorem effects_updateChan {d : Dir} {f : Chan → Chan} (n : Lane) (h : KeepsRange c d f) :
    (updateChan d n f).effects c := effects_update fun s => .entry d n f h s

theorem keepsRange_same {d : Dir} {f : Chan → Chan} (h : ∀ e, (f e).head = e.head ∧ (f e).tail = e.tail) :
    KeepsRange c d f := fun e h1 h2 => by rw [(h e).1, (h e).2]; exact ⟨h1, h2⟩

theorem keepsRange_stopped (d : Dir) : KeepsRange c d (stoppedChan d) := by
  intro e h1 h2
  cases d
  · exact ⟨h1, h1⟩
  · exact ⟨cap_pos c .rx, cap_pos c .rx⟩

theorem effects_ld32 (r : Reg) : (ld32 r).effects c :=
  ⟨fun s x t _ e => by cases e; exact .read r s, fun _ => trivial⟩

theorem each_st32 {r : Reg} {v : Word} (h : ∀ s t, s.cfg = c → regWrite r v s = .ok t → R s t) :
    (st32 r v).each c R := by
  refine ⟨fun s x t hs e => ?_, fun _ => trivial⟩
  simp only at e
  cases k : regWrite r v s with
  | error r' => rw [k] at e; cases e
  | ok u => rw [k] at e; cases e; exact h s _ hs k

theorem effects_st32 (r : Reg) (v : Word) : (st32 r v).effects c :=
  each_st32 fun _ _ _ h => .write r v h

theorem effects_ack (d : Dir) (n : Lane) : (ack d n).effects c := effects_st32 _ _
theorem effects_setEn (d : Dir) (n : Lane) : (setEn d n).effects c :=
  each_params (each_bind (effects_ld32 _) fun _ => effects_st32 _ _)
theorem effects_clrEn (d : Dir) (n : Lane) : (clrEn d n).effects c :=
  each_params (each_bind (effects_ld32 _) fun _ => effects_st32 _ _)
theorem effects_pulse (d : Dir) (n : Lane) : (pulse d n).effects c :=
  each_bind (effects_st32 _ _) fun _ => effects_st32 _ _

theorem effects_drawAccepted (k : Nat) : (drawAccepted k).effects c :=
  ⟨fun s x t _ e => by cases e; exact .accepted s, fun _ => trivial⟩
theorem effects_drawStream : drawStream.effects c :=
  ⟨fun s x t _ e => by cases e; exact .stream s, fun _ => trivial⟩

theorem readRingByte_same {d : Dir} {n : Lane} {i : Nat} :
    (readRingByte d n i).each c fun s t => t = s := by
  refine ⟨fun s x t _ e => ?_, fun _ => trivial⟩
  simp only at e
  split at e
  · cases e; rfl
  · cases e

/-- Reading a ring byte changes nothing. -/
theorem effects_readRingByte (d : Dir) (n : Lane) (i : Nat) : (readRingByte d n i).effects c :=
  each_mono readRingByte_same fun s t e => by subst e; exact .read .bufSz _

theorem effects_writeRingByte (d : Dir) (n : Lane) (i : Nat) (b : Byte) :
    (writeRingByte d n i b).effects c := by
  refine ⟨fun s x t _ e => ?_, fun _ => trivial⟩
  simp only at e
  split at e
  · cases e; exact .byte _ _ ‹_› s
  · cases e

theorem effects_readRing (d : Dir) (n : Lane) (mask start : Nat) (k : Nat) :
    ∀ j, (readRing d n mask start j k).effects c := by
  induction k with
  | zero => intro j; trivial
  | succ k ih =>
    intro j
    exact each_bind (effects_readRingByte _ _ _) fun _ => each_bind (ih _) fun _ => each_done _

theorem effects_writeRing (d : Dir) (n : Lane) (mask : Nat) (data : List Byte) (start : Nat) (k : Nat) :
    ∀ j, (writeRing d n mask data start j k).effects c := by
  induction k with
  | zero => intro j; trivial
  | succ k ih => intro j; exact each_bind (effects_writeRingByte _ _ _ _) fun _ => ih _

theorem each_lookChan {d : Dir} {n : Lane} {f : Chan → Op α} (h : ∀ e, (f e).each c R) :
    ((lookChan d n).bind f).each c R := fun x => h x.chan

theorem each_lookAttached {f : Bool → Op α} (h : ∀ b, (f b).each c R) :
    (lookAttached.bind f).each c R := fun x => h x.flag

theorem each_lookFits {a : Word} {f : Bool → Op α} (h : ∀ b, (f b).each c R) :
    ((lookFits a).bind f).each c R := fun x => h x.flag

theorem each_lookBuf {d : Dir} {n : Lane} {f : Word → Op α} (h : ∀ e, (f e).each c R) :
    ((lookBuf d n).bind f).each c R := fun x => h x.word

theorem effects_zeroPointerRegs (n : Lane) (d : Dir) : (zeroPointerRegs n d).effects c := by
  cases d <;> exact each_bind (effects_st32 _ _) fun _ => effects_st32 _ _

theorem effects_stopSequence (d : Dir) (n : Lane) : (stopSequence d n).effects c :=
  each_bind (effects_clrEn _ _) fun _ => each_bind (effects_pulse _ _) fun _ =>
    each_bind (effects_zeroPointerRegs _ _) fun _ => each_lookBuf fun _ =>
      each_bind (effects_st32 _ _) fun _ => each_bind (effects_updateChan _ (keepsRange_stopped d)) fun _ =>
        effects_updateChan _ (keepsRange_same fun _ => ⟨rfl, rfl⟩)

theorem effects_emitOwned (d : Dir) (n : Lane) (e : Owner → Event) : (emitOwned d n e).effects c :=
  each_lookChan fun x => by
    cases x.slot
    · exact each_done _
    · exact effects_emit _

theorem effects_corruptPath (d : Dir) (n : Lane) : (corruptPath d n).effects c :=
  each_bind (effects_emit _) fun _ => each_bind (effects_stopSequence _ _) fun _ =>
    each_bind (effects_emitOwned _ _ _) fun _ => each_done _

/-! ### The commands' bodies -/

theorem effects_attachBody : attachBody.effects c := by
  refine each_params (each_lookAttached fun _ => ?_)
  refine each_bind (each_faultIf _ _) fun _ => each_bind ?_ fun _ => each_bind ?_ fun _ =>
    each_bind ?_ fun _ => each_bind ?_ fun _ => each_bind ?_ fun _ => each_done _
  · exact each_bind (each_forEach _ fun _ => each_bind (each_faultIf _ _) fun _ => each_faultIf _ _)
      fun _ => each_faultIf _ _
  · iterate 9 refine each_bind (effects_st32 _ _) fun _ => ?_
    exact effects_st32 _ _
  · exact each_forEach _ fun _ => each_bind (effects_st32 _ _) fun _ => effects_st32 _ _
  · iterate 3 refine each_bind (effects_st32 _ _) fun _ => ?_
    exact effects_st32 _ _
  · have entry : ∀ d n, (clearEntry d n).effects c := fun d n =>
      effects_updateChan n fun _ _ _ => ⟨cap_pos c d, cap_pos c d⟩
    exact each_bind (each_forEach _ (entry .tx)) fun _ => each_bind (each_forEach _ (entry .rx)) fun _ =>
      each_bind (each_forEach _ fun n => effects_update fun s => .buffer n 0 s) fun _ =>
        effects_update fun s => .attached true s

theorem effects_dropTxBuffer (n : Lane) : (dropTxBuffer n).effects c :=
  each_bind (effects_st32 _ _) fun _ => effects_update fun s => .buffer n 0 s

theorem keepsRange_freed (d : Dir) : KeepsRange c d freedChan := fun _ _ _ => ⟨cap_pos c d, cap_pos c d⟩

theorem effects_detachLane (d : Dir) (n : Lane) : (detachLane d n).effects c :=
  each_bind (effects_stopSequence _ _) fun _ => effects_updateChan n (keepsRange_freed d)

theorem effects_detachBody : detachBody.effects c :=
  each_params (each_bind (each_forEach _ (effects_detachLane .tx)) fun _ =>
    each_bind (each_forEach _ (effects_detachLane .rx)) fun _ =>
      each_bind (each_forEach _ effects_dropTxBuffer) fun _ => each_bind (effects_st32 _ _) fun _ =>
        each_bind (effects_st32 _ _) fun _ =>
          each_bind (effects_update fun s => .attached false s) fun _ => each_done _)

theorem effects_claimRxBody (owner : Owner) (cb : Callback) (n : Lane) :
    (claimRxBody owner cb n).effects c :=
  each_params (each_lookChan fun _ => each_ite (fun _ => each_done _) fun _ =>
    each_bind (effects_updateChan _ (keepsRange_same fun _ => ⟨rfl, rfl⟩)) fun _ => each_done _)

theorem effects_claimTxBody (owner : Owner) (cb : Callback) (addr : Word) (n : Lane) :
    (claimTxBody owner cb addr n).effects c :=
  each_params (each_lookChan fun _ => each_ite (fun _ => each_done _) fun _ =>
    each_bind (each_faultIf _ _) fun _ => each_lookFits fun _ => each_bind (each_faultIf _ _) fun _ =>
      each_bind (effects_st32 _ _) fun _ => each_bind (effects_update fun s => .buffer n addr s) fun _ =>
        each_bind (effects_updateChan _ (keepsRange_same fun _ => ⟨rfl, rfl⟩)) fun _ => each_done _)

theorem effects_setRun (d : Dir) (n : Lane) (r : RunState) : (setRun d n r).effects c :=
  effects_updateChan _ (keepsRange_same fun _ => ⟨rfl, rfl⟩)

theorem effects_setWork (d : Dir) (n : Lane) : (setWork d n).effects c :=
  effects_updateChan _ (keepsRange_same fun _ => ⟨rfl, rfl⟩)

theorem effects_triggerIdleTx (n : Lane) : (triggerIdleTx n).effects c :=
  each_lookChan fun _ => each_bind (effects_pulse _ _) fun _ => each_bind (effects_st32 _ _) fun _ =>
    each_bind (effects_st32 _ _) fun _ => each_bind (effects_setEn _ _) fun _ => effects_setRun _ _ _

theorem effects_triggerIdleRx (n : Lane) : (triggerIdleRx n).effects c :=
  each_bind (effects_pulse _ _) fun _ => each_bind (effects_st32 _ _) fun _ =>
    each_bind (effects_st32 _ _) fun _ =>
      each_bind (effects_updateChan _ fun _ _ _ => ⟨cap_pos c .rx, cap_pos c .rx⟩) fun _ =>
        each_bind (effects_setEn _ _) fun _ => effects_setRun _ _ _

theorem effects_triggerBody (d : Dir) (n : Lane) : (triggerBody d n).effects c :=
  each_lookChan fun e => each_ite (fun _ => by
    cases e.run
    · refine each_bind ?_ fun _ => each_done _
      cases d
      · exact effects_triggerIdleTx n
      · exact effects_triggerIdleRx n
    · exact each_done _
    · exact each_bind (each_bind (effects_setEn _ _) fun _ => effects_setRun _ _ _) fun _ => each_done _)
    fun _ => each_done _

theorem effects_stopBody (d : Dir) (n : Lane) : (stopBody d n).effects c :=
  each_bind (effects_stopSequence _ _) fun _ => each_done _

theorem effects_pauseBody (d : Dir) (n : Lane) : (pauseBody d n).effects c :=
  each_lookChan fun _ => each_ite
    (fun _ => each_bind (effects_clrEn _ _) fun _ => each_bind (effects_setRun _ _ _) fun _ => each_done _)
    fun _ => each_done _

theorem effects_releaseBody (d : Dir) (n : Lane) : (releaseBody d n).effects c :=
  each_lookChan fun _ => each_ite (fun _ => by
    refine each_bind (effects_stopSequence _ _) fun _ => each_bind ?_ fun _ =>
      each_bind (effects_updateChan _ (keepsRange_freed d)) fun _ => each_done _
    cases d
    · exact effects_dropTxBuffer n
    · exact each_done _) fun _ => each_done _

theorem effects_updswBody (d : Dir) (val : Word) (n : Lane) : (updswBody d val n).effects c :=
  each_params (each_lookChan fun _ => each_ite (fun _ => each_done _) fun _ => each_ite
    (fun h => each_bind (effects_updateChan _ (by
        intro e h1 h2
        cases d
        · exact ⟨h, h2⟩
        · exact ⟨h1, h⟩)) fun _ => each_bind (effects_st32 _ _) fun _ => each_done _)
    fun _ => each_done _)

theorem effects_rdhwBody (d : Dir) (n : Lane) : (rdhwBody d n).effects c :=
  each_params (each_bind (effects_ld32 _) fun _ =>
    each_ite (fun _ => each_done _) fun _ => effects_corruptPath _ _)

theorem effects_recheck (d : Dir) (n : Lane) (v : Word) : (recheck d n v).effects c :=
  each_bind (effects_ld32 _) fun _ => each_opWhen fun _ => effects_setWork _ _

theorem effects_rxdrainBody (n : Lane) : (rxdrainBody n).effects c := by
  refine each_lookChan fun _ => each_ite (fun _ => each_done _) fun _ => ?_
  refine each_params (each_bind (effects_ld32 _) fun h => each_lookChan fun e =>
    each_ite (fun hlt => ?_) fun _ => effects_corruptPath _ _)
  refine each_bind (effects_updateChan _ fun _ _ h2 => ⟨hlt, h2⟩) fun _ =>
    each_ite (fun _ => each_done _) fun _ => ?_
  refine each_bind (effects_readRing _ _ _ _ _ _) fun _ => each_bind (effects_drawAccepted _) fun acc =>
    each_bind (each_opWhen fun _ => ?_) fun _ =>
      each_bind (effects_updateChan _ fun _ h1 _ => ⟨h1, ringAdd_lt c .rx _ _⟩) fun _ =>
        each_bind (effects_st32 _ _) fun _ => each_bind (effects_recheck _ _ _) fun _ => each_done _
  exact each_bind (effects_emitOwned _ _ _) fun _ => effects_emitOwned _ _ _

theorem effects_txprodBody (count : Nat) (data : List Byte) (n : Lane) :
    (txprodBody count data n).effects c := by
  refine each_params (each_lookChan fun _ => each_ite (fun _ => ?_) fun _ => each_done _)
  refine each_bind (effects_writeRing _ _ _ _ _ _ _) fun _ =>
    each_bind (effects_updateChan _ fun _ _ h2 => ⟨ringAdd_lt c .tx _ _, h2⟩) fun _ =>
      each_bind (effects_st32 _ _) fun _ =>
        each_bind (each_opWhen fun _ => effects_triggerIdleTx n) fun _ =>
          each_bind (each_opWhen fun _ => effects_emitOwned _ _ _) fun _ => each_bind ?_ fun _ => each_done _
  exact each_lookChan fun _ => each_opWhen fun _ => effects_setWork _ _

theorem effects_txcompBody (n : Lane) : (txcompBody n).effects c := by
  refine each_lookChan fun _ => each_ite (fun _ => each_done _) fun _ => ?_
  refine each_params (each_bind (effects_ld32 _) fun _ => each_lookChan fun _ =>
    each_ite (fun h => ?_) fun _ => effects_corruptPath _ _)
  have hlt := of_decide_eq_true (Bool.and_eq_true_iff.mp h).1
  refine each_bind (effects_updateChan _ fun _ h1 _ => ⟨h1, hlt⟩) fun _ => each_bind ?_ fun _ =>
    each_bind (effects_recheck _ _ _) fun _ => each_done _
  exact each_lookChan fun _ => each_opWhen fun _ => effects_st32 _ _

theorem effects_workBody (d : Dir) (n : Lane) : (workBody d n).effects c := by
  refine each_lookChan fun _ => each_ite (fun _ => ?_) fun _ => each_done _
  refine each_bind (effects_updateChan _ (keepsRange_same fun _ => ⟨rfl, rfl⟩)) fun _ => ?_
  cases d
  · refine each_bind (effects_txcompBody n) fun _ => each_ite (fun _ => each_done _) fun _ => ?_
    exact each_bind effects_drawStream fun _ => each_lookChan fun _ =>
      each_ite (fun _ => each_bind (effects_txprodBody _ _ _) fun _ => each_done _) fun _ => each_done _
  · exact effects_rxdrainBody n

theorem effects_complete (d : Dir) (n : Lane) : (complete d n).effects c := by
  refine each_lookChan fun _ => each_ite (fun _ => ?_) fun _ => ?_
  · refine each_params (each_bind (effects_ld32 _) fun _ => each_ite (fun _ => ?_) fun _ => ?_)
    · refine each_lookChan fun x => ?_
      cases x.slot
      · exact effects_setWork _ _
      · exact each_bind (effects_emit _) fun _ => effects_setWork _ _
    · exact each_bind (effects_corruptPath _ _) fun _ => each_done _
  · refine each_lookChan fun _ => each_bind (effects_emit _) fun _ => each_bind (effects_clrEn _ _) fun _ =>
      each_opWhen fun _ => ?_
    exact each_params (each_bind (effects_ld32 _) fun _ => each_opWhen fun h =>
      effects_updateChan _ fun _ _ _ => ⟨of_decide_eq_true h, of_decide_eq_true h⟩)

theorem effects_dispatchBody : dispatchBody.effects c :=
  each_params (each_bind (effects_ld32 _) fun _ => each_bind (effects_ld32 _) fun _ =>
    each_bind (each_opWhen fun _ => effects_emit _) fun _ =>
      each_bind (each_opWhen fun _ => effects_emit _) fun _ =>
        each_ite (fun _ => each_bind (effects_emit _) fun _ => each_done _) fun _ =>
          each_bind (each_forEach _ fun _ => each_opWhen fun _ =>
            each_bind (effects_ack _ _) fun _ => effects_complete _ _) fun _ =>
          each_bind (each_forEach _ fun _ => each_opWhen fun _ =>
            each_bind (effects_ack _ _) fun _ => effects_complete _ _) fun _ => each_done _)

theorem effects_commandProgram (i : Instr) {body : Op Ret} (h : body.effects c) :
    (commandProgram i body).effects c :=
  each_bind h fun r => effects_update fun s => .result i r s

theorem effects_attachedProgram (i : Instr) {body : Op Ret} (h : body.effects c) :
    (attachedProgram i body).effects c :=
  effects_commandProgram i (each_lookAttached fun _ => each_ite (fun _ => h) fun _ => each_stop _)

theorem effects_laneProgram (i : Instr) (f : LaneField) {body : Lane → Op Ret}
    (h : ∀ n, (body n).effects c) : (laneProgram i f body).effects c :=
  effects_attachedProgram i (each_params (by
    cases laneOf c f with
    | none => exact each_done _
    | some n => exact h n))

/-- Every micro-step of every command, whatever the command read before, is one of the effects. -/
theorem commandOf_effects {i : Instr} {x : Op Unit} (h : commandOf i = some x) : x.effects c := by
  cases i <;> simp only [commandOf, Option.some.injEq, reduceCtorEq] at h <;> subst h
  case attach => exact effects_commandProgram _ effects_attachBody
  case detach => exact effects_attachedProgram _ effects_detachBody
  case claimTx => exact effects_laneProgram _ _ fun n => effects_claimTxBody _ _ _ n
  case claimRx => exact effects_laneProgram _ _ fun n => effects_claimRxBody _ _ n
  case trigger => exact effects_laneProgram _ _ fun n => effects_triggerBody _ n
  case stop => exact effects_laneProgram _ _ fun n => effects_stopBody _ n
  case pause => exact effects_laneProgram _ _ fun n => effects_pauseBody _ n
  case release => exact effects_laneProgram _ _ fun n => effects_releaseBody _ n
  case updsw => exact effects_laneProgram _ _ fun n => effects_updswBody _ _ n
  case rdhw => exact effects_laneProgram _ _ fun n => effects_rdhwBody _ n
  case dispatch => exact effects_attachedProgram _ effects_dispatchBody
  case rxdrain => exact effects_laneProgram _ _ fun n => effects_rxdrainBody n
  case txprod => exact effects_laneProgram _ _ fun n => effects_txprodBody _ _ n
  case txcomp => exact effects_laneProgram _ _ fun n => effects_txcompBody n
  case work => exact effects_laneProgram _ _ fun n => effects_workBody _ n

/-! ### What every micro-step keeps -/

/-- What no piece of a command changes, and that the history is only appended to. -/
structure Kept (s t : State) : Prop where
  cfg : t.cfg = s.cfg
  faulted : t.faulted = s.faulted
  refused : t.refused = s.refused
  inbox : t.inbox = s.inbox
  readData : t.readData = s.readData
  pace : t.pace = s.pace
  hist : ∃ es, t.hist = s.hist ++ es

theorem Kept.refl (s : State) : Kept s s := ⟨rfl, rfl, rfl, rfl, rfl, rfl, [], by simp⟩

theorem Kept.trans {s t u : State} (h : Kept s t) (k : Kept t u) : Kept s u where
  cfg := k.cfg.trans h.cfg
  faulted := k.faulted.trans h.faulted
  refused := k.refused.trans h.refused
  inbox := k.inbox.trans h.inbox
  readData := k.readData.trans h.readData
  pace := k.pace.trans h.pace
  hist := by
    obtain ⟨a, ha⟩ := h.hist
    obtain ⟨b, hb⟩ := k.hist
    exact ⟨a ++ b, by rw [hb, ha, List.append_assoc]⟩

theorem LaneFrame.kept {s t : State} (h : LaneFrame s t) : Kept s t :=
  ⟨h.cfg, h.faulted, h.refused, h.inbox, h.readData, h.pace, let ⟨es, he, _⟩ := h.hist; ⟨es, he⟩⟩

theorem boundary_kept (s : State) : Kept s (boundary s) :=
  ⟨by simp, by simp, by simp, by simp, by simp, by simp,
    let ⟨es, he, _⟩ := (interleave_frame s).hist; ⟨es, he⟩⟩

/-- A register write changes registers only. -/
theorem regWrite_kept {r : Reg} {v : Word} {s t : State} (h : regWrite r v s = .ok t) :
    Kept s t ∧ t.hist = s.hist ∧ t.mem = s.mem ∧ t.sched = s.sched ∧ t.draws = s.draws ∧
      t.cur = s.cur ∧ t.seen = s.seen ∧ t.attached = s.attached ∧ t.txBuf = s.txBuf ∧
      ∀ d n, t.chan d n = s.chan d n := by
  have same : ∀ u : State, u = s →
      Kept s u ∧ u.hist = s.hist ∧ u.mem = s.mem ∧ u.sched = s.sched ∧ u.draws = s.draws ∧
      u.cur = s.cur ∧ u.seen = s.seen ∧ u.attached = s.attached ∧ u.txBuf = s.txBuf ∧
      ∀ d n, u.chan d n = s.chan d n := by rintro u rfl; simp [Kept.refl]
  have kept : ∀ u : State, u.cfg = s.cfg → u.faulted = s.faulted → u.refused = s.refused →
      u.inbox = s.inbox → u.readData = s.readData → u.pace = s.pace → u.hist = s.hist → Kept s u :=
    fun u a b d e f g h => ⟨a, b, d, e, f, g, [], by simp [h]⟩
  cases r <;> simp only [regWrite] at h <;> (repeat' split at h) <;> cases h <;>
    first
    | exact same _ rfl
    | (refine ⟨kept _ ?_ ?_ ?_ ?_ ?_ ?_ ?_, ?_, ?_, ?_, ?_, ?_, ?_, ?_, ?_, ?_⟩ <;>
        first | rfl | (intros; simp) | simp | (intro d n; cases d <;> rfl))

theorem Effect.kept {s t : State} (h : Effect c s t) : Kept s t := by
  cases h with
  | read r s => cases r <;> exact ⟨rfl, rfl, rfl, rfl, rfl, rfl, [], by simp [afterRead]⟩
  | write r v h => exact (regWrite_kept h).1
  | entry d n f _ s => exact ⟨by simp, by simp, by simp, by simp, by simp, by simp, [], by simp⟩
  | accepted s => exact ⟨rfl, rfl, rfl, rfl, rfl, rfl, [], by simp⟩
  | stream s => exact ⟨rfl, rfl, rfl, rfl, rfl, rfl, [], by simp⟩
  | event e s => exact ⟨rfl, rfl, rfl, rfl, rfl, rfl, [e], rfl⟩
  | buffer n v s => exact ⟨rfl, rfl, rfl, rfl, rfl, rfl, [], by simp⟩
  | attached b s => exact ⟨rfl, rfl, rfl, rfl, rfl, rfl, [], by simp⟩
  | byte a b _ s => exact ⟨rfl, rfl, rfl, rfl, rfl, rfl, [], by simp⟩
  | result i r s => exact ⟨rfl, rfl, rfl, rfl, rfl, rfl, [.result i r.code r.value], rfl⟩

/-- A piece whose micro-steps are effects keeps all that. -/
theorem effects_kept {x : Op α} (h : ∀ c, x.effects c) (s : State) : Kept s (final (x.run s)) :=
  each_run (each_mono (h s.cfg) fun _ _ e => e.kept) Kept.refl Kept.trans boundary_kept Kept.cfg s rfl

theorem effects_kept_ok {x : Op α} (h : ∀ c, x.effects c) {s t : State} {a : α}
    (e : x.run s = .ok a t) : Kept s t := by
  have := effects_kept h s
  rwa [e] at this

/-! ### Pieces that emit nothing -/

/-- A piece emits no event of the block's own. -/
abbrev Op.silent {α : Type} (x : Op α) : Prop := ∀ c, x.each c fun s t => t.cfg = s.cfg ∧ t.hist = s.hist

/-- The history grew by line bytes and, in order, by the events `own`. -/
def Grew (own : List Event) (s t : State) : Prop :=
  ∃ es, t.hist = s.hist ++ es ∧ es.filter Event.isOwn = own

theorem Grew.refl (s : State) : Grew [] s s := ⟨[], by simp, rfl⟩

theorem Grew.trans {a b : List Event} {s t u : State} (h : Grew a s t) (k : Grew b t u) :
    Grew (a ++ b) s u := by
  obtain ⟨l, hl, rfl⟩ := h
  obtain ⟨m, hm, rfl⟩ := k
  exact ⟨l ++ m, by rw [hm, hl, List.append_assoc], by simp⟩

theorem grew_boundary (s : State) : Grew [] s (boundary s) := (interleave_frame s).hist

theorem grew_log {e : Event} (h : e.isOwn = true) (s : State) : Grew [e] s (s.log e) :=
  ⟨[e], rfl, by simp [h]⟩

theorem grew_same {s t : State} (h : t.hist = s.hist) : Grew [] s t := ⟨[], by simp [h], rfl⟩

/-- Running a silent piece, only line bytes join the history. -/
theorem silent_run {x : Op α} (h : x.silent) (s : State) : Grew [] s (final (x.run s)) := by
  have := each_run (R := fun s t => t.cfg = s.cfg ∧ Grew [] s t)
    (each_mono (h s.cfg) fun _ _ e => ⟨e.1, grew_same e.2⟩) (fun s => ⟨rfl, .refl s⟩)
    (fun a b => ⟨b.1.trans a.1, a.2.trans b.2⟩) (fun s => ⟨by simp, grew_boundary s⟩)
    (fun a => a.1) s rfl
  exact this.2

theorem silent_run_ok {x : Op α} (h : x.silent) {s t : State} {a : α} (e : x.run s = .ok a t) :
    Grew [] s t := by
  have := silent_run h s
  rwa [e] at this

theorem silent_bind {x : Op α} {f : α → Op β} (h : x.silent) (k : ∀ a, (f a).silent) :
    (x.bind f).silent := fun c => each_bind (h c) fun a => k a c

theorem silent_st32 (r : Reg) (v : Word) : (st32 r v).silent := fun _ =>
  each_st32 fun _ _ _ h => ⟨(regWrite_kept h).1.cfg, (regWrite_kept h).2.1⟩

theorem silent_ld32 (r : Reg) : (ld32 r).silent := fun c =>
  ⟨fun s x t _ e => by cases e; cases r <;> exact ⟨rfl, rfl⟩, fun _ => trivial⟩

theorem silent_update {f : State → State} (h : ∀ s, (f s).cfg = s.cfg ∧ (f s).hist = s.hist) :
    (update f).silent := fun c => ⟨fun s x t _ e => by cases e; exact h s, fun _ => trivial⟩

theorem silent_updateChan (d : Dir) (n : Lane) (f : Chan → Chan) : (updateChan d n f).silent :=
  silent_update fun _ => ⟨by simp, by simp⟩

theorem silent_setEn (d : Dir) (n : Lane) : (setEn d n).silent := fun c =>
  each_params (each_bind (silent_ld32 _ c) fun _ => silent_st32 _ _ c)
theorem silent_clrEn (d : Dir) (n : Lane) : (clrEn d n).silent := fun c =>
  each_params (each_bind (silent_ld32 _ c) fun _ => silent_st32 _ _ c)
theorem silent_pulse (d : Dir) (n : Lane) : (pulse d n).silent :=
  silent_bind (silent_st32 _ _) fun _ => silent_st32 _ _
theorem silent_zeroPointerRegs (n : Lane) (d : Dir) : (zeroPointerRegs n d).silent := by
  cases d <;> exact silent_bind (silent_st32 _ _) fun _ => silent_st32 _ _
theorem silent_stopSequence (d : Dir) (n : Lane) : (stopSequence d n).silent := fun c =>
  each_bind (silent_clrEn _ _ c) fun _ => each_bind (silent_pulse _ _ c) fun _ =>
    each_bind (silent_zeroPointerRegs _ _ c) fun _ => each_lookBuf fun _ =>
      each_bind (silent_st32 _ _ c) fun _ => each_bind (silent_updateChan _ _ _ c) fun _ =>
        silent_updateChan _ _ _ c
theorem silent_triggerIdleRx (n : Lane) : (triggerIdleRx n).silent := fun c =>
  each_bind (silent_pulse _ _ c) fun _ => each_bind (silent_st32 _ _ c) fun _ =>
    each_bind (silent_st32 _ _ c) fun _ => each_bind (silent_updateChan _ _ _ c) fun _ =>
      each_bind (silent_setEn _ _ c) fun _ => silent_updateChan _ _ _ c
theorem silent_triggerIdleTx (n : Lane) : (triggerIdleTx n).silent := fun c =>
  each_lookChan fun _ => each_bind (silent_pulse _ _ c) fun _ => each_bind (silent_st32 _ _ c) fun _ =>
    each_bind (silent_st32 _ _ c) fun _ => each_bind (silent_setEn _ _ c) fun _ =>
      silent_updateChan _ _ _ c
theorem silent_writeRing (d : Dir) (n : Lane) (mask : Nat) (data : List Byte) (start : Nat) (k : Nat) :
    ∀ j, (writeRing d n mask data start j k).silent := by
  induction k with
  | zero => intro j c; trivial
  | succ k ih =>
    intro j c
    refine each_bind ⟨fun s x t _ e => ?_, fun _ => trivial⟩ fun _ => ih _ c
    simp only at e
    split at e
    · cases e; exact ⟨rfl, rfl⟩
    · cases e
theorem silent_readRing (d : Dir) (n : Lane) (mask start : Nat) (k : Nat) :
    ∀ j, (readRing d n mask start j k).silent := by
  induction k with
  | zero => intro j c; trivial
  | succ k ih =>
    intro j c
    refine each_bind (each_mono readRingByte_same ?_) fun _ => each_bind (ih _ c) fun _ => trivial
    rintro s t rfl
    exact ⟨rfl, rfl⟩
theorem silent_recheck (d : Dir) (n : Lane) (v : Word) : (recheck d n v).silent := fun c =>
  each_bind (silent_ld32 _ c) fun _ => each_opWhen fun _ => silent_updateChan _ _ _ c

end Sys2Proof.Machine
end

