-- ==== Sys2Proof/Laws/Runs.lean ====
section
/-! SUPPORT. What the shared sequences do where their preconditions hold: the STOP sequence, the
CorruptPointer path, TRIGGER from `Idle`. -/

namespace Sys2Proof.Machine

/-- From `s` a piece of a command arrived in `t`, having emitted `own`, where `u` is what its own accesses
make of `s`, the history apart. -/
structure Did (own : List Event) (s u t : State) : Prop where
  control : controlPart t = controlPart u
  kept : Kept s t
  grew : Grew own s t
  quiet : s.sched = [] → quietPart t = quietPart (u.setHist (s.hist ++ own)) ∧ t.sched = []

theorem run_seq {α β : Type} {x : Op α} {f : α → Op β} {s t u : State} {a : α} {b : β}
    (h : x.run s = .ok a t) (k : (f a).run t = .ok b u) : (x.bind f).run s = .ok b u := by simp [h, k]

/-- A piece that emits nothing. -/
theorem Did.of_silent {α : Type} {x : Op α} {s u t : State} {a : α} (e : x.run s = .ok a t)
    (effects : ∀ c, x.effects c) (silent : x.silent) (hist : u.hist = s.hist)
    (control : controlPart t = controlPart u)
    (quiet : s.sched = [] → quietPart t = quietPart u ∧ t.sched = []) : Did [] s u t where
  control := control
  kept := effects_kept_ok effects e
  grew := silent_run_ok silent e
  quiet hs := by
    rw [List.append_nil, ← hist, setHist_self]
    exact quiet hs

/-- A body that did its work ends its command. -/
theorem Did.ended {own : List Event} {s u t : State} {i : Instr} (r : Ret)
    (h : Did own (beginCommand i s) u t) : Ended i r own s u (endCommand i r (boundary t)) where
  control := by simpa using h.control
  events := by
    obtain ⟨es, he, ho⟩ := h.grew.trans (grew_boundary t)
    exact ⟨es, by simp [he], by simpa using ho⟩
  between := ⟨rfl, rfl⟩
  quiet hs := by
    obtain ⟨q1, q2⟩ := h.quiet hs
    exact quietPart_eq_endCommand ((quietPart_boundary q2).trans q1)

/-! ### Lane bits after the updates -/

@[simp] theorem laneEnabled_withEn (s : State) (d : Dir) (v : Word) (n : Lane) :
    laneEnabled (s.withEn d v) d n = testLane v n := by simp [laneEnabled]
@[simp] theorem testLane_withoutLaneBit_self (c : Params) (v : Word) (n : Lane) :
    testLane (withoutLaneBit c v n) n = false := by simp
@[simp] theorem laneInReset_assertReset (s : State) (d : Dir) (v : Word) (n : Lane) :
    laneInReset (assertReset s d v) d n = testLane v n := by simp [laneInReset]
@[simp] theorem laneEnabled_assertReset (s : State) (d : Dir) (v : Word) (n : Lane) :
    laneEnabled (assertReset s d v) d n = laneEnabled s d n := by simp [laneEnabled]
@[simp] theorem laneEnabled_withHw (s : State) (d e : Dir) (m : Lane) (v : Word) (n : Lane) :
    laneEnabled (s.withHw d m v) e n = laneEnabled s e n := by simp [laneEnabled]
@[simp] theorem laneEnabled_withSw (s : State) (d e : Dir) (m : Lane) (v : Word) (n : Lane) :
    laneEnabled (s.withSw d m v) e n = laneEnabled s e n := by simp [laneEnabled]
@[simp] theorem laneInReset_withHw (s : State) (d e : Dir) (m : Lane) (v : Word) (n : Lane) :
    laneInReset (s.withHw d m v) e n = laneInReset s e n := by simp [laneInReset]
@[simp] theorem laneInReset_withSw (s : State) (d e : Dir) (m : Lane) (v : Word) (n : Lane) :
    laneInReset (s.withSw d m v) e n = laneInReset s e n := by simp [laneInReset]
@[simp] theorem laneEnabled_setChan (s : State) (d e : Dir) (m : Lane) (c : Chan) (n : Lane) :
    laneEnabled (s.setChan d m c) e n = laneEnabled s e n := by simp [laneEnabled]
@[simp] theorem laneInReset_setChan (s : State) (d e : Dir) (m : Lane) (c : Chan) (n : Lane) :
    laneInReset (s.setChan d m c) e n = laneInReset s e n := by simp [laneInReset]
@[simp] theorem laneEnabled_beginCommand (i : Instr) (s : State) (e : Dir) (n : Lane) :
    laneEnabled (beginCommand i s) e n = laneEnabled s e n := by simp [laneEnabled]
@[simp] theorem laneInReset_beginCommand (i : Instr) (s : State) (e : Dir) (n : Lane) :
    laneInReset (beginCommand i s) e n = laneInReset s e n := by simp [laneInReset]
@[simp] theorem zero_lt_cap (c : Params) (d : Dir) : 0 < cap c d := cap_pos c d

/-! ### STOP -/

/-- The two pointer writes of STOP, each after its boundary. -/
def pointersZeroed (s : State) (n : Lane) : Dir → State
  | .rx => (boundary ((boundary s).withSw .rx n 0)).withHw .rx n 0
  | .tx => (boundary ((boundary s).withHw .tx n 0)).withSw .tx n 0

theorem zeroPointerRegs_run (d : Dir) (n : Lane) (s : State) (he : laneEnabled s d n = false)
    (hr : laneInReset s d n = false) : (zeroPointerRegs n d).run s = .ok () (pointersZeroed s n d) := by
  cases d
  · exact run_seq (st32_hw _ (by simp) he hr) (st32_sw _ (by simp) (by simpa using hr))
  · exact run_seq (st32_sw _ (by simp) hr) (st32_hw _ (by simp) (by simpa using he) (by simpa using hr))

/-- The STOP sequence completes wherever the lane exists and its buffer is aligned. -/
theorem stopSequence_run (d : Dir) (n : Lane) (s : State) (hn : s.cfg.hasLane n = true)
    (ha : aligned s.cfg (s.buf d n) = true) :
    ∃ t, (stopSequence d n).run s = .ok () t ∧ Did [] s (stopped s d n) t := by
  have run : ∃ t, (stopSequence d n).run s = .ok () t ∧ controlPart t = controlPart (stopped s d n) ∧
      (s.sched = [] → quietPart t = quietPart (stopped s d n) ∧ t.sched = []) := by
    refine ⟨_, run_seq (clrEn_run _ _ _) (run_seq (pulse_run _ ?_) (run_seq (zeroPointerRegs_run _ _ _ ?_ ?_)
        (run_seq (lookBuf_run _ _ _) (run_seq (st32_base _ ?_ ?_)
        (run_seq (updateChan_run _ _ _ _) (updateChan_run _ _ _ _)))))), ?_, ?_⟩
    · simpa using hn
    · simp
    · simp
    · cases d <;> simp [pointersZeroed]
    · cases d <;> simpa [pointersZeroed] using ha
    · cases d <;> simp [stopped, stoppedChan, pointersZeroed]
    · intro h
      cases d <;> simp [quietPart_boundary, h, stopped, stoppedChan, pointersZeroed]
  obtain ⟨t, ht, hc, hq⟩ := run
  exact ⟨t, ht, .of_silent ht (fun _ => effects_stopSequence d n) (silent_stopSequence d n)
    (by cases d <;> simp [stopped, pulsed, State.withStill]) hc hq⟩

/-- What STOP leaves of the lane's own fields. -/
@[simp] theorem stopped_cfg (s : State) (d : Dir) (n : Lane) : (stopped s d n).cfg = s.cfg := by
  cases d <;> rfl
@[simp] theorem stopped_chan (s : State) (d : Dir) (n : Lane) :
    (stopped s d n).chan d n = { stoppedChan d (s.chan d n) with run := .idle } := by simp [stopped]
@[simp] theorem stopped_laneEnabled (s : State) (d : Dir) (n : Lane) :
    laneEnabled (stopped s d n) d n = false := by
  cases d <;> simp [stopped, pulsed, State.withStill, laneEnabled, State.bank, State.withEn, State.withRst,
    State.withHw, State.withSw, State.withBase, State.setBank]
@[simp] theorem stopped_laneInReset (s : State) (d : Dir) (n : Lane) (m : Lane) :
    laneInReset (stopped s d n) d m = false := by
  cases d <;> simp [stopped, pulsed, State.withStill, laneInReset, State.bank, State.withEn, State.withRst,
    State.withHw, State.withSw, State.withBase, State.setBank]

/-! ### TRIGGER from `Idle` -/

theorem triggerIdleRx_run (n : Lane) (s : State) (hn : s.cfg.hasLane n = true)
    (he : laneEnabled s .rx n = false) :
    ∃ t, (triggerIdleRx n).run s = .ok () t ∧ Did [] s (triggered s n .rx) t := by
  have run : ∃ t, (triggerIdleRx n).run s = .ok () t ∧ controlPart t = controlPart (triggered s n .rx) ∧
      (s.sched = [] → quietPart t = quietPart (triggered s n .rx) ∧ t.sched = []) := by
    refine ⟨_, run_seq (pulse_run _ hn) (run_seq (st32_hw _ ?_ ?_ ?_) (run_seq (st32_sw _ ?_ ?_)
      (run_seq (updateChan_run _ _ _ _) (run_seq (setEn_run _ _ _) (setRun_run _ _ _ _))))), ?_, ?_⟩
    · simp
    · simpa using he
    · simp
    · simp
    · simp
    · simp [triggered]
    · intro h
      simp [quietPart_boundary, h, triggered]
  obtain ⟨t, ht, hc, hq⟩ := run
  exact ⟨t, ht, .of_silent ht (fun _ => effects_triggerIdleRx n) (silent_triggerIdleRx n)
    (by simp [triggered, pulsed, State.withStill]) hc hq⟩

theorem triggerIdleTx_run (n : Lane) (s : State) (hn : s.cfg.hasLane n = true)
    (he : laneEnabled s .tx n = false) (hh : (s.chan .tx n).head < cap s.cfg .tx)
    (ht : (s.chan .tx n).tail < cap s.cfg .tx) :
    ∃ t, (triggerIdleTx n).run s = .ok () t ∧ Did [] s (triggered s n .tx) t := by
  have run : ∃ t, (triggerIdleTx n).run s = .ok () t ∧ controlPart t = controlPart (triggered s n .tx) ∧
      (s.sched = [] → quietPart t = quietPart (triggered s n .tx) ∧ t.sched = []) := by
    refine ⟨_, run_seq (lookChan_run _ _ _) (run_seq (pulse_run _ hn) (run_seq (st32_hw _ ?_ ?_ ?_)
      (run_seq (st32_sw _ ?_ ?_) (run_seq (setEn_run _ _ _) (setRun_run _ _ _ _))))), ?_, ?_⟩
    · simpa [toWord_toNat_of_lt_cap ht] using ht
    · simpa using he
    · simp
    · simpa [toWord_toNat_of_lt_cap hh] using hh
    · simp
    · simp [triggered]
    · intro h
      simp [quietPart_boundary, h, triggered]
  obtain ⟨t, ht, hc, hq⟩ := run
  exact ⟨t, ht, .of_silent ht (fun _ => effects_triggerIdleTx n) (silent_triggerIdleTx n)
    (by simp [triggered, pulsed, State.withStill]) hc hq⟩

end Sys2Proof.Machine
end

