-- ==== Sys2Proof/Laws/RingRuns.lean ====
section
/-! SUPPORT. What the ring operations do where their preconditions hold: publishing a software pointer,
reading and writing ring bytes, events to an owner, the re-check, the CorruptPointer path. -/

namespace Sys2Proof.Machine

/-! ### Publishing a software pointer -/

@[simp] theorem laneInReset_controlPart (s : State) (d : Dir) (n : Lane) :
    laneInReset (controlPart s) d n = laneInReset s d n := by cases d <;> rfl

@[simp] theorem laneInReset_quietPart (s : State) (d : Dir) (n : Lane) :
    laneInReset (quietPart s) d n = laneInReset s d n := by cases d <;> rfl

@[simp] theorem laneInReset_dropAccepted (s : State) (d : Dir) (n : Lane) :
    laneInReset (dropAccepted s) d n = laneInReset s d n := by cases d <;> rfl

@[simp] theorem controlPart_published (s : State) (d : Dir) (n : Lane) (k : Nat) :
    controlPart (published s d n k) = published (controlPart s) d n k := by
  simp only [published, laneInReset_controlPart]; split <;> simp

@[simp] theorem quietPart_published (s : State) (d : Dir) (n : Lane) (k : Nat) :
    quietPart (published s d n k) = published (quietPart s) d n k := by
  simp only [published, laneInReset_quietPart]; split <;> simp

@[simp] theorem published_setChan (s : State) (d e : Dir) (n m : Lane) (c : Chan) (k : Nat) :
    published (s.setChan d n c) e m k = (published s e m k).setChan d n c := by
  simp only [published, laneInReset_setChan]; split <;> simp

@[simp] theorem laneInReset_setHist (s : State) (h : List Event) (d : Dir) (n : Lane) :
    laneInReset (s.setHist h) d n = laneInReset s d n := by cases d <;> rfl

@[simp] theorem published_setHist (s : State) (h : List Event) (d : Dir) (n : Lane) (k : Nat) :
    published (s.setHist h) d n k = (published s d n k).setHist h := by
  simp only [published, laneInReset_setHist]; split <;> simp

@[simp] theorem published_chan (s : State) (d e : Dir) (n m : Lane) (k : Nat) :
    (published s d n k).chan e m = s.chan e m := by simp only [published]; split <;> simp
@[simp] theorem published_cfg (s : State) (d : Dir) (n : Lane) (k : Nat) :
    (published s d n k).cfg = s.cfg := by simp only [published]; split <;> simp
@[simp] theorem published_buf (s : State) (d e : Dir) (n m : Lane) (k : Nat) :
    (published s d n k).buf e m = s.buf e m := by simp only [published]; split <;> simp
@[simp] theorem published_sched (s : State) (d : Dir) (n : Lane) (k : Nat) :
    (published s d n k).sched = s.sched := by simp only [published]; split <;> simp
@[simp] theorem published_hist (s : State) (d : Dir) (n : Lane) (k : Nat) :
    (published s d n k).hist = s.hist := by simp only [published]; split <;> simp
@[simp] theorem published_mem (s : State) (d : Dir) (n : Lane) (k : Nat) :
    (published s d n k).mem = s.mem := by simp only [published]; split <;> simp
@[simp] theorem published_hw (s : State) (d e : Dir) (n : Lane) (k : Nat) :
    ((published s d n k).bank e).hw = (s.bank e).hw := by simp only [published]; split <;> simp
@[simp] theorem laneEnabled_published (s : State) (d e : Dir) (n m : Lane) (k : Nat) :
    laneEnabled (published s d n k) e m = laneEnabled s e m := by
  simp only [published]; split <;> simp [laneEnabled]

/-- A software-pointer write of an index. -/
theorem st32_sw_run {d : Dir} {n : Lane} {k : Nat} (s : State) (hk : k < cap s.cfg d) :
    (st32 (.sw d n) (toWord k)).run s = .ok () (published (boundary s) d n k) := by
  have h : ¬ cap s.cfg d ≤ (toWord k).toNat := by rw [toWord_toNat_of_lt_cap hk]; omega
  cases hr : laneInReset s d n <;> simp [st32, Op.run, regWrite, Except.map, h, hr, published]

theorem st32_sw_value {d : Dir} {n : Lane} {v : Word} (s : State) (hv : v.toNat < cap s.cfg d) :
    (st32 (.sw d n) v).run s = .ok () (published (boundary s) d n v.toNat) := by
  have := st32_sw_run (d := d) (n := n) s hv
  rwa [toWord_of_toNat] at this

/-! ### Reading the ring -/

/-- Some bytes of the ring, from index `start ⊕ j` on. -/
def ringBytesFrom (s : State) (d : Dir) (n : Lane) (start j k : Nat) : List Byte :=
  (List.range k).map fun i =>
    memRead s.mem (ringAddress s d n (ringAdd (ringMask s.cfg d) start (j + i)))

theorem ringBytesFrom_succ (s : State) (d : Dir) (n : Lane) (start j k : Nat) :
    ringBytesFrom s d n start j (k + 1) =
      memRead s.mem (ringAddress s d n (ringAdd (ringMask s.cfg d) start j)) ::
        ringBytesFrom s d n start (j + 1) k := by
  simp [ringBytesFrom, List.range_succ_eq_map, Function.comp_def, Nat.add_assoc, Nat.add_comm 1]

theorem ringBytesFrom_quiet {s t : State} (h : quietPart t = quietPart s) (d : Dir) (n : Lane)
    (start j k : Nat) : ringBytesFrom t d n start j k = ringBytesFrom s d n start j k := by
  simp [ringBytesFrom, ringAddress, quiet_mem h, quiet_cfg h, quiet_buf h]

/-- A ring below the top has every byte below the top. -/
theorem ringAddress_lt {s : State} {d : Dir} {n : Lane} (h : (s.buf d n).toNat + cap s.cfg d ≤ 2 ^ 32)
    (a b : Nat) : ringAddress s d n (ringAdd (ringMask s.cfg d) a b) < addressLimit := by
  have := ringAdd_lt s.cfg d a b
  simp only [ringAddress, addressLimit]
  omega

/-- One ring byte read below the top of memory. -/
theorem readRingByte_run {d : Dir} {n : Lane} {i : Nat} {s : State}
    (h : ringAddress s d n i < addressLimit) :
    (readRingByte d n i).run s = .ok (memRead (boundary s).mem (ringAddress s d n i)) (boundary s) := by
  have e : ringAddress (boundary s) d n i = ringAddress s d n i := by simp [ringAddress]
  simp [readRingByte, Op.run, e, h]

/-- One ring byte written below the top of memory. -/
theorem writeRingByte_run {d : Dir} {n : Lane} {i : Nat} {b : Byte} {s : State}
    (h : ringAddress s d n i < addressLimit) :
    (writeRingByte d n i b).run s =
      .ok () ((boundary s).setMem (memWrite (boundary s).mem (ringAddress s d n i) b)) := by
  have e : ringAddress (boundary s) d n i = ringAddress s d n i := by simp [ringAddress]
  simp [writeRingByte, Op.run, e, h]

/-- Reading `k` ring bytes changes nothing of the control unit's and, with no lane agent scheduled, reads
them as they stand. -/
theorem readRing_run (d : Dir) (n : Lane) (start k : Nat) :
    ∀ (j : Nat) (s : State), (s.buf d n).toNat + cap s.cfg d ≤ 2 ^ 32 →
      ∃ bs t, (readRing d n (ringMask s.cfg d) start j k).run s = .ok bs t ∧ bs.length = k ∧
        controlPart t = controlPart s ∧ t.draws = s.draws ∧
        (s.sched = [] → quietPart t = quietPart s ∧ t.sched = [] ∧
          bs = ringBytesFrom s d n start j k) := by
  induction k with
  | zero =>
    intro j s _
    exact ⟨[], s, rfl, rfl, rfl, rfl, fun h => ⟨rfl, h, rfl⟩⟩
  | succ k ih =>
    intro j s hb
    obtain ⟨bs, t, ht, hl, hc, hd, hq⟩ := ih (j + 1) (boundary s) (by simpa using hb)
    rw [boundary_cfg] at ht
    refine ⟨_, t, run_seq (readRingByte_run (ringAddress_lt hb start j)) (run_seq ht rfl),
      by simpa using hl, by simpa using hc, by simpa using hd, ?_⟩
    intro hs
    obtain ⟨q1, q2, q3⟩ := hq (by simp [hs])
    refine ⟨q1.trans (quietPart_boundary hs), q2, ?_⟩
    have hm : (boundary s).mem = s.mem := quiet_mem (quietPart_boundary hs)
    rw [ringBytesFrom_succ, q3, ringBytesFrom_quiet (quietPart_boundary hs), hm]

/-! ### Writing the ring -/

/-- Memory after `k` bytes were put at `start ⊕ j`, `start ⊕ (j + 1)`, …. -/
def ringFilledFrom (s : State) (d : Dir) (n : Lane) (start : Nat) (data : List Byte) (j k : Nat) :
    Memory :=
  (List.range k).foldl (fun m i =>
    memWrite m (ringAddress s d n (ringAdd (ringMask s.cfg d) start (j + i))) (streamByte data (j + i)))
    s.mem

theorem ringFilledFrom_succ (s : State) (d : Dir) (n : Lane) (start : Nat) (data : List Byte) (j k : Nat) :
    ringFilledFrom s d n start data j (k + 1) =
      ringFilledFrom (s.setMem (memWrite s.mem
        (ringAddress s d n (ringAdd (ringMask s.cfg d) start j)) (streamByte data j)))
        d n start data (j + 1) k := by
  simp [ringFilledFrom, List.range_succ_eq_map, List.foldl_map, Nat.add_assoc, Nat.add_comm 1, ringAddress]

theorem ringFilledFrom_quiet {s t : State} (h : quietPart t = quietPart s) (d : Dir) (n : Lane)
    (start : Nat) (data : List Byte) (j k : Nat) :
    ringFilledFrom t d n start data j k = ringFilledFrom s d n start data j k := by
  simp [ringFilledFrom, ringAddress, quiet_mem h, quiet_cfg h, quiet_buf h]

/-- Writing `k` ring bytes changes nothing of the control unit's and, with no lane agent scheduled, memory as
stated and nothing else. -/
theorem writeRing_run (d : Dir) (n : Lane) (data : List Byte) (start k : Nat) :
    ∀ (j : Nat) (s : State), (s.buf d n).toNat + cap s.cfg d ≤ 2 ^ 32 →
      ∃ t, (writeRing d n (ringMask s.cfg d) data start j k).run s = .ok () t ∧
        controlPart t = controlPart s ∧ t.draws = s.draws ∧
        (s.sched = [] → quietPart t = quietPart (s.setMem (ringFilledFrom s d n start data j k)) ∧
          t.sched = []) := by
  induction k with
  | zero =>
    intro j s _
    exact ⟨s, rfl, rfl, rfl, fun h => ⟨rfl, h⟩⟩
  | succ k ih =>
    intro j s hb
    obtain ⟨t, ht, hc, hd, hq⟩ := ih (j + 1) ((boundary s).setMem (memWrite (boundary s).mem
      (ringAddress s d n (ringAdd (ringMask s.cfg d) start j)) (streamByte data j)))
      (by simpa using hb)
    simp only [setMem_cfg, boundary_cfg] at ht
    refine ⟨t, run_seq (writeRingByte_run (ringAddress_lt hb start j)) ht, by simpa using hc,
      by simpa using hd, ?_⟩
    intro hs
    have hqb := quietPart_boundary hs
    obtain ⟨q1, q2⟩ := hq (by simp [hs])
    refine ⟨q1.trans ?_, q2⟩
    have hr := ringFilledFrom_quiet hqb d n start data j (k + 1)
    rw [ringFilledFrom_succ, boundary_cfg] at hr
    have he : ringAddress (boundary s) d n (ringAdd (ringMask s.cfg d) start j) =
        ringAddress s d n (ringAdd (ringMask s.cfg d) start j) := by simp [ringAddress]
    rw [he] at hr
    rw [hr]
    exact congrArg (fun x : State => x.setMem (ringFilledFrom s d n start data j (k + 1))) hqb

/-! ### Events, the re-check, the CorruptPointer path -/

theorem emitOwned_run {d : Dir} {n : Lane} {e : Owner → Event} {s : State} {owner : Owner} {cb : Callback}
    (h : (s.chan d n).slot = .owned owner cb) :
    (emitOwned d n e).run s = .ok () ((boundary s).log (e owner)) := by
  simp [emitOwned, h]

/-- The re-check sets the work flag exactly where the second read of the hardware pointer differs from the
first. -/
theorem recheck_run (d : Dir) (n : Lane) (v : Word) (s : State) :
    ∃ t, (recheck d n v).run s = .ok () t ∧
      let w := (s.chan d n).work || decide (((boundary s).bank d).hw[n.val] ≠ v)
      Did [] s (s.setChan d n { s.chan d n with work := w }) t := by
  have hset : ∀ u : State, u.setChan d n (u.chan d n) = u := fun u => setChan_self u d n
  by_cases hv : ((boundary s).bank d).hw[n.val] = v
  · have e : (recheck d n v).run s = .ok () (boundary s) := by simp [recheck, hv]
    refine ⟨_, e, .of_silent e (fun _ => effects_recheck d n v) (silent_recheck d n v) (by simp) ?_ ?_⟩
    · simp only [controlPart_boundary, hv, ne_eq, not_true_eq_false, decide_false, Bool.or_false]
      rw [hset]
    · intro hs
      refine ⟨?_, by simp [hs]⟩
      simp only [quietPart_boundary hs, hv, ne_eq, not_true_eq_false, decide_false, Bool.or_false]
      rw [hset]
  · have e : (recheck d n v).run s =
        .ok () ((boundary (boundary s)).setChan d n { s.chan d n with work := true }) := by
      simp [recheck, hv]
    refine ⟨_, e, .of_silent e (fun _ => effects_recheck d n v) (silent_recheck d n v) (by simp) ?_ ?_⟩
    · simp [hv]
    · intro hs
      simp [quietPart_boundary, hs, hv]

/-- What RXDRAIN makes of the consumer stream's `acc` bytes, `bs` being those it read (R245): the events. -/
theorem deliver_run {n : Lane} {s : State} {owner : Owner} {cb : Callback} {bytes : List Byte}
    (h : (s.chan .rx n).slot = .owned owner cb) (hb : bytes ≠ []) :
    ∃ t, (deliver n bytes).run s = .ok () t ∧ Did (drainEvents owner n bytes) s s t := by
  refine ⟨_, run_seq (emitOwned_run h) (emitOwned_run (owner := owner) (cb := cb) (by simpa using h)), ?_⟩
  refine ⟨by simp, ?_, ?_, fun hs => ?_⟩
  · exact (boundary_kept s).trans ((Effect.event (c := s.cfg) _ _).kept.trans
      ((boundary_kept _).trans (Effect.event (c := s.cfg) _ _).kept))
  · have := (grew_boundary s).trans ((grew_log (e := .deliver owner n bytes) rfl _).trans
      ((grew_boundary _).trans (grew_log (e := .bytesAvailable owner n) rfl _)))
    simpa [drainEvents, hb] using this
  · have h1 : quietPart (boundary s) = quietPart s := quietPart_boundary hs
    refine ⟨?_, by simp [hs]⟩
    rw [quietPart_log, quietPart_boundary (by simp [hs]), quietPart_log, h1]
    simp [log_eq_setHist, drainEvents, hb]

/-- The drain of `avail` bytes from `tail` on, `h` being the hardware pointer read before (R245): what it
leaves, what it emits, and how the work flag ends. -/
theorem drainBytes_run (a : State) (n : Lane) (owner : Owner) (cb : Callback) (h : Word) (avail : Nat)
    (hb : (a.buf .rx n).toNat + cap a.cfg .rx ≤ 2 ^ 32) (hslot : (a.chan .rx n).slot = .owned owner cb) :
    let tail := (a.chan .rx n).tail
    let acc := nextAccepted a avail
    let t1 := ringAdd (ringMask a.cfg .rx) tail acc
    ∃ w t bs, (drainBytes n (ringMask a.cfg .rx) tail avail h).run a = .ok (okValue acc) t ∧
      bs.length = acc ∧ ((a.chan .rx n).work = true → w = true) ∧
      controlPart t = controlPart ((published a .rx n t1).setChan .rx n
        { a.chan .rx n with tail := t1, work := w }) ∧
      Grew (drainEvents owner n bs) a t ∧
      (a.sched = [] → t.sched = [] ∧ bs = ringBytes a .rx n tail acc ∧
        ((a.bank .rx).hw[n.val] = h → w = (a.chan .rx n).work) ∧
        quietPart t = quietPart (((published (dropAccepted a) .rx n t1).setChan .rx n
          { a.chan .rx n with tail := t1, work := w }).setHist (a.hist ++ drainEvents owner n bs))) := by
  intro tail acc t1
  obtain ⟨bs, b, hb1, hb2, hb3, hbd, hb4⟩ := readRing_run .rx n tail avail 0 a hb
  have hb5 : Grew [] a b := silent_run_ok (silent_readRing _ _ _ _ _ _) hb1
  have hacc : nextAccepted b avail = acc := by simp [acc, nextAccepted, hbd]
  have hle : acc ≤ avail := nextAccepted_le a avail
  have hlen : (bs.take acc).length = acc := by rw [List.length_take, hb2, Nat.min_eq_left hle]
  let c := dropAccepted (boundary b)
  have hcb : controlPart c = controlPart a := by simp [c, hb3]
  have hcg : Grew [] a c := hb5.trans (grew_boundary b)
  have hcq : a.sched = [] → c.sched = [] ∧ quietPart c = dropAccepted (quietPart a) := by
    intro hs; have := hb4 hs; simp [c, this.1, this.2.1, quietPart_boundary]
  have hcslot : (c.chan .rx n).slot = .owned owner cb := by rw [control_chan hcb]; exact hslot
  -- the events
  obtain ⟨e, he, hed⟩ : ∃ e, (opWhen (decide (0 < acc)) (deliver n (bs.take acc))).run c = .ok () e ∧
      Did (drainEvents owner n (bs.take acc)) c c e := by
    by_cases hz : acc = 0
    · refine ⟨c, by simp [hz], rfl, Kept.refl c, ?_, fun hs => ⟨?_, hs⟩⟩
      · simpa [drainEvents, hz] using Grew.refl c
      · simp [drainEvents, hz, setHist_self]
    · have hp : 0 < acc := Nat.pos_of_ne_zero hz
      have hne : bs.take acc ≠ [] := by intro h0; rw [h0] at hlen; exact hz hlen.symm
      simpa [hp] using deliver_run hcslot hne
  have hec : controlPart e = controlPart a := hed.control.trans hcb
  have heg : Grew (drainEvents owner n (bs.take acc)) a e := hcg.trans hed.grew
  have heq : a.sched = [] → e.sched = [] ∧
      quietPart e = (dropAccepted (quietPart a)).setHist (a.hist ++ drainEvents owner n (bs.take acc)) := by
    intro hs
    obtain ⟨q1, q2⟩ := hcq hs
    obtain ⟨q3, q4⟩ := hed.quiet q1
    have hh : c.hist = a.hist := quiet_hist (s := dropAccepted a) (t := c) (by simp [q2])
    exact ⟨q4, by rw [q3, quietPart_setHist, q2, hh]⟩
  -- the tail and its publication
  have ht1 : t1 < cap a.cfg .rx := ringAdd_lt _ _ _ _
  let g := published (boundary ((boundary e).setChan .rx n { e.chan .rx n with tail := t1 })) .rx n t1
  have hgc : controlPart g =
      controlPart ((published a .rx n t1).setChan .rx n { a.chan .rx n with tail := t1 }) := by
    simp [g, hec, control_chan hec]
  have hst : (st32 (.sw .rx n) (toWord t1)).run
      ((boundary e).setChan .rx n { e.chan .rx n with tail := t1 }) = .ok () g :=
    st32_sw_run _ (by simpa [control_cfg hec] using ht1)
  have hgg : Grew (drainEvents owner n (bs.take acc)) a g := by
    have s1 := silent_run_ok (silent_updateChan .rx n fun x => { x with tail := t1 }) (updateChan_run _ _ _ e)
    have s2 := silent_run_ok (silent_st32 _ _) hst
    simpa using heg.trans (s1.trans s2)
  -- the re-check
  obtain ⟨t, ht, hd⟩ := recheck_run .rx n h g
  have hgchan : g.chan .rx n = { a.chan .rx n with tail := t1 } := by rw [control_chan hgc]; simp
  let w := (g.chan .rx n).work || decide (((boundary g).bank .rx).hw[n.val] ≠ h)
  refine ⟨w, t, bs.take acc, run_seq hb1 (run_seq (by rw [drawAccepted_run, hacc]) (run_seq he
    (run_seq (updateChan_run _ _ _ _) (run_seq hst (run_seq ht rfl))))), hlen, ?_, ?_, ?_, ?_⟩
  · intro hw; simp [w, hgchan, hw]
  · rw [hd.control]; simp [w, hgc, hgchan]
  · simpa using hgg.trans hd.grew
  · intro hs
    have hbs : bs.take acc = ringBytes a .rx n tail acc := by
      rw [(hb4 hs).2.2]
      simp only [ringBytesFrom, ringBytes, ← List.map_take, List.take_range, Nat.zero_add]
      rw [Nat.min_eq_left hle]
    have hgs : g.sched = [] := by simp [g, (heq hs).1]
    have hgq : quietPart g = quietPart (((published (dropAccepted a) .rx n t1).setChan .rx n
        { a.chan .rx n with tail := t1 }).setHist (a.hist ++ drainEvents owner n (bs.take acc))) := by
      simp [g, (heq hs).1, quietPart_boundary, (heq hs).2, control_chan hec]
    obtain ⟨r1, r2⟩ := hd.quiet hgs
    refine ⟨r2, hbs, ?_, ?_⟩
    · intro hh
      have hw : ((boundary g).bank .rx).hw[n.val] = h := by
        rw [quiet_bank (quietPart_boundary hgs), quiet_bank hgq]; simpa using hh
      simp [w, hgchan, hw]
    · have hgh : g.hist = a.hist ++ drainEvents owner n (bs.take acc) := by
        rw [quiet_hist hgq]; simp
      rw [r1, hgh]; simp [w, hgq, hgchan]

theorem corruptPath_run {d : Dir} {n : Lane} {s : State} {owner : Owner} {cb : Callback}
    (hn : s.cfg.hasLane n = true) (ha : aligned s.cfg (s.buf d n) = true)
    (h : (s.chan d n).slot = .owned owner cb) :
    ∃ t, (corruptPath d n).run s = .ok { code := .corruptPointer, value := none } t ∧
      Did [.anomaly .corruptPointer (some d) (some n), .ioError owner d n] s (stopped s d n) t := by
  let b := (boundary s).log (.anomaly .corruptPointer (some d) (some n))
  have hlog : ∀ (u : State) (e : Event), stopped (u.log e) d n = (stopped u d n).setHist (u.hist ++ [e]) := by
    intro u e
    rw [log_eq_setHist]
    cases d <;> rfl
  obtain ⟨t, ht, hd⟩ := stopSequence_run d n b (by simpa [b] using hn) (by
    have : b.buf d n = s.buf d n := by cases d <;> simp [b, State.log, State.buf]
    rw [this]; simpa [b, State.log] using ha)
  have hslot : (t.chan d n).slot = .owned owner cb := by
    rw [control_chan hd.control, stopped_chan]
    cases d <;> simpa [b, State.log, stoppedChan, State.chan] using h
  have hbc : controlPart (stopped b d n) = controlPart (stopped s d n) := by
    have : controlPart b = controlPart s := by simp [b]
    rw [hlog, controlPart_setHist]
    simp only [stopped, controlPart_setChan, controlPart_withBase, controlPart_pulsed, controlPart_withEn,
      controlPart_dropReserved, controlPart_boundary, boundary_chan, boundary_buf, boundary_en, boundary_cfg]
  refine ⟨_, run_seq (emit_run _ _) (run_seq ht (run_seq (emitOwned_run hslot) rfl)), ?_, ?_, ?_, ?_⟩
  · simp [hd.control, hbc]
  · exact (boundary_kept s).trans ((Effect.event (c := s.cfg) _ _).kept.trans (hd.kept.trans
      ((boundary_kept _).trans (Effect.event (c := s.cfg) _ _).kept)))
  · have := (grew_boundary s).trans ((grew_log (e := .anomaly .corruptPointer (some d) (some n)) rfl
      (boundary s)).trans (hd.grew.trans ((grew_boundary _).trans
      (grew_log (e := .ioError owner d n) rfl (boundary t)))))
    simpa using this
  · intro hs
    have hbs : b.sched = [] := by simp [b, State.log, hs]
    obtain ⟨q1, q2⟩ := hd.quiet hbs
    refine ⟨?_, by simp [State.log, q2]⟩
    have hbq : quietPart (boundary s) = quietPart s := quietPart_boundary hs
    have hth : t.hist = s.hist ++ [.anomaly .corruptPointer (some d) (some n)] := by
      rw [quiet_hist q1]; simp [b, State.log, quiet_hist hbq]
    rw [quietPart_log, quietPart_boundary q2, log_eq_setHist, quietPart_hist, hth, q1, hlog]
    simp only [quietPart_setHist, setHist_setHist, stopped, quietPart_setChan, quietPart_withBase,
      quietPart_pulsed, quietPart_withEn, quietPart_dropReserved, hbq, boundary_chan, boundary_buf,
      boundary_en, boundary_cfg]
    simp

end Sys2Proof.Machine
end

