-- ==== Sys2Proof/Laws/Refill.lean ====
section
/-! SUPPORT. What a transmit refill does where its preconditions hold (43 R255). -/

namespace Sys2Proof.Machine

/-! ### The quiet part of a refill -/

theorem ringFilled_quietPart (s : State) (d : Dir) (n : Lane) (start : Nat) (data : List Byte) (k : Nat) :
    ringFilled (quietPart s) d n start data k = ringFilled s d n start data k := by
  simp only [ringFilled, ringAddress, quietPart_buf, quietPart_cfg]; rfl

@[simp] theorem quietPart_produced (s : State) (n : Lane) (data : List Byte) (k : Nat) :
    quietPart (produced s n data k) = produced (quietPart s) n data k := by
  simp [produced, ringFilled_quietPart]

@[simp] theorem quietPart_triggered (s : State) (n : Lane) (d : Dir) :
    quietPart (triggered s n d) = triggered (quietPart s) n d := by
  cases d <;> simp [triggered]

@[simp] theorem quietPart_startedIfIdle (s : State) (n : Lane) (k : Nat) :
    quietPart (startedIfIdle s n k) = startedIfIdle (quietPart s) n k := by
  simp only [startedIfIdle, quietPart_chan]; split <;> simp

theorem quietPart_refillAgain (s : State) (n : Lane) (count k : Nat) :
    refillAgain (quietPart s) n count k = refillAgain s n count k := by
  simp [refillAgain, spaceCount, pendingCount]

@[simp] theorem quietPart_refilled (s : State) (n : Lane) (count : Nat) (data : List Byte) (k : Nat) :
    quietPart (refilled s n count data k) = refilled (quietPart s) n count data k := by
  have hc : (startedIfIdle (produced (quietPart s) n data k) n k).chan .tx n =
      (startedIfIdle (produced s n data k) n k).chan .tx n := by
    rw [← quietPart_produced, ← quietPart_startedIfIdle, quietPart_chan]
  have hr : refillAgain (produced (quietPart s) n data k) n count k =
      refillAgain (produced s n data k) n count k := by rw [← quietPart_produced, quietPart_refillAgain]
  simp only [refilled, hc, hr, quietPart_setChan, quietPart_startedIfIdle, quietPart_produced]

/-- The control part sees what the quiet part does. -/
theorem controlPart_of_quietPart {s t : State} (h : quietPart t = quietPart s) :
    controlPart t = controlPart s := by
  have e : ∀ x, controlPart x = controlPart (quietPart x) := fun _ => rfl
  rw [e t, e s, h]

/-- `space` of a lane is that of its channel-table entry. -/
theorem spaceCount_eq (s : State) (n : Lane) : spaceCount s .tx n = entrySpace s.cfg (s.chan .tx n) := rfl

/-- TXPROD of an owned lane, `k` bytes of which fit (R255). -/
theorem refill_run (n : Lane) (owner : Owner) (cb : Callback) (count k : Nat) (data : List Byte) (s : State)
    (hn : s.cfg.hasLane n = true) (hslot : (s.chan .tx n).slot = .owned owner cb)
    (ht : (s.chan .tx n).tail < cap s.cfg .tx) (hb : (s.buf .tx n).toNat + cap s.cfg .tx ≤ 2 ^ 32)
    (hidle : (s.chan .tx n).run = .idle → laneEnabled s .tx n = false) :
    ∃ t, (refillBytes s.cfg n (s.chan .tx n) count k data).run s = .ok (okValue k) t ∧
      Did (wakeEvents s owner n (count - k)) s (refilled s n count data k) t := by
  obtain ⟨a, ha, hac, had, haq⟩ := writeRing_run .tx n data (s.chan .tx n).head k 0 s hb
  have hag : Grew [] s a := silent_run_ok (silent_writeRing _ _ _ _ _ _ _) ha
  have hak : Kept s a := effects_kept_ok (fun _ => effects_writeRing _ _ _ _ _ _ _) ha
  let h1 := ringAdd (ringMask s.cfg .tx) (s.chan .tx n).head k
  have hh1 : h1 < cap s.cfg .tx := ringAdd_lt _ _ _ _
  let a1 := (boundary a).setChan .tx n { a.chan .tx n with head := h1 }
  let b := published (boundary a1) .tx n h1
  have hst : (st32 (.sw .tx n) (toWord h1)).run a1 = .ok () b :=
    st32_sw_run _ (by simpa [a1, control_cfg hac] using hh1)
  have hbg : Grew [] s b := by
    have s1 := silent_run_ok (silent_updateChan .tx n fun x => { x with head := h1 }) (updateChan_run _ _ _ a)
    exact hag.trans (s1.trans (silent_run_ok (silent_st32 _ _) hst))
  have hbk : Kept s b := by
    exact hak.trans ((boundary_kept a).trans (Kept.trans
      ⟨by simp [a1], by simp [a1], by simp [a1], by simp [a1], by simp [a1], by simp [a1], [], by simp [a1]⟩
      (effects_kept_ok (fun _ => effects_st32 _ _) hst)))
  have hbc : controlPart b = controlPart (produced s n data k) := by
    simp [b, a1, hac, control_chan hac, produced, h1]
  have hbq : s.sched = [] → b.sched = [] ∧ quietPart b = quietPart (produced s n data k) := by
    intro hs
    obtain ⟨q1, q2⟩ := haq hs
    refine ⟨by simp [b, a1, q2], ?_⟩
    simp [b, a1, q2, quietPart_boundary, q1, control_chan hac, produced, h1, ringFilledFrom, ringFilled]
  have hpc : (produced s n data k).chan .tx n = { s.chan .tx n with head := h1 } := by simp [produced, h1]
  have hbchan : b.chan .tx n = { s.chan .tx n with head := h1 } := by rw [control_chan hbc, hpc]
  -- the trigger
  set u := startedIfIdle (produced s n data k) n k with hu
  obtain ⟨c, hc1, hcg, hck, hc2, hc3⟩ : ∃ c,
      (opWhen (decide (0 < k ∧ (s.chan .tx n).run = .idle)) (triggerIdleTx n)).run b = .ok () c ∧
      Grew [] b c ∧ Kept b c ∧ controlPart c = controlPart u ∧
      (s.sched = [] → c.sched = [] ∧ quietPart c = quietPart u) := by
    by_cases hc : 0 < k ∧ (s.chan .tx n).run = .idle
    · have he : laneEnabled b .tx n = false := by
        rw [control_laneEnabled hbc]
        simp [produced, laneEnabled_published]
        simpa [laneEnabled] using hidle hc.2
      obtain ⟨c, e, hd⟩ := triggerIdleTx_run n b (by simpa [hbk.cfg] using hn) he
        (by simpa [hbchan, hbk.cfg] using hh1) (by simpa [hbchan, hbk.cfg] using ht)
      refine ⟨c, by simp [hc, e], hd.grew, hd.kept, ?_, ?_⟩
      · rw [hd.control]
        simp [u, startedIfIdle, hpc, hc, triggered, hbc, hbchan, control_en hbc, control_cfg hbc]
      · intro hs
        obtain ⟨q1, q2⟩ := hd.quiet (hbq hs).1
        refine ⟨q2, q1.trans ?_⟩
        have hq := (hbq hs).2
        have hh : b.hist = (triggered b n .tx).hist := by simp [triggered, pulsed, State.withStill]
        rw [List.append_nil, hh, setHist_self]
        simp [u, startedIfIdle, hpc, hc, triggered, hq, hbchan, control_en hbc, control_cfg hbc]
    · refine ⟨b, by simp [hc], .refl b, .refl b, ?_, fun hs => ?_⟩
      · simp [u, startedIfIdle, hpc, hc, hbc]
      · simp [u, startedIfIdle, hpc, hc, hbq hs]
  have huslot : (u.chan .tx n).slot = .owned owner cb := by
    simp only [hu, startedIfIdle]; split <;> simp [triggered, hpc, hslot]
  have hucfg : u.cfg = s.cfg := by
    simp only [hu, startedIfIdle]; split <;> simp [triggered, produced, pulsed, State.withStill]
  have hupend : spaceCount u .tx n = spaceCount (produced s n data k) .tx n := by
    have : (u.chan .tx n).head = h1 ∧ (u.chan .tx n).tail = (s.chan .tx n).tail := by
      simp only [hu, startedIfIdle]; split <;> simp [triggered, hpc]
    simp [spaceCount, pendingCount, hucfg, this, produced, h1]
  have huh : u.hist = s.hist := by
    simp only [hu, startedIfIdle]; split <;> simp [triggered, produced, pulsed, State.withStill]
  have hcslot : (c.chan .tx n).slot = .owned owner cb := by rw [control_chan hc2]; exact huslot
  -- the wake
  obtain ⟨w, hw, hwg, hwk, hwc, hwq⟩ : ∃ w, (wakeWriter n (count - k) s.cfg.lowWater).run c = .ok () w ∧
      Grew (wakeEvents s owner n (count - k)) c w ∧ Kept c w ∧ controlPart w = controlPart u ∧
      (s.sched = [] → w.sched = [] ∧
        quietPart w = quietPart (u.setHist (s.hist ++ wakeEvents s owner n (count - k)))) := by
    by_cases hl : count - k < s.cfg.lowWater
    · refine ⟨(boundary c).log (.spaceAvailable owner n), ?_, ?_, ?_, by simp [hc2], fun hs => ?_⟩
      · simp only [wakeWriter, hl, decide_true, opWhen_true]; exact emitOwned_run hcslot
      · simpa [wakeEvents, hl] using
          (grew_boundary c).trans (grew_log (e := .spaceAvailable owner n) rfl (boundary c))
      · exact (boundary_kept c).trans (Effect.event (c := s.cfg) _ _).kept
      · obtain ⟨q1, q2⟩ := hc3 hs
        refine ⟨by simp [q1], ?_⟩
        rw [quietPart_log, quietPart_boundary q1, q2, log_eq_setHist]
        simp [wakeEvents, hl, huh]
    · refine ⟨c, by simp [wakeWriter, hl], by simpa [wakeEvents, hl] using Grew.refl c, .refl c, hc2,
        fun hs => ?_⟩
      obtain ⟨q1, q2⟩ := hc3 hs
      refine ⟨q1, ?_⟩
      simp only [wakeEvents, hl, if_false, List.append_nil]
      rw [q2, ← huh, setHist_self]
  have hwcfg : w.cfg = s.cfg := (control_cfg hwc).trans hucfg
  -- the rescheduling
  have hspace : entrySpace s.cfg (w.chan .tx n) = spaceCount (produced s n data k) .tx n := by
    rw [← hupend, spaceCount_eq, hucfg, control_chan hwc]
  let g := refillAgain (produced s n data k) n count k
  have hgc : decide (count > k ∧ k = refillUnit s.cfg ∧ entrySpace s.cfg (w.chan .tx n) > 0) = g := by
    simp only [g, refillAgain, hspace]; simp [produced]
  let t : State := if g = true then (boundary w).setChan .tx n { w.chan .tx n with work := true } else w
  have hr : (rescheduleRefill s.cfg n count k).run w = .ok () t := by
    simp only [rescheduleRefill, op_bind, run_bind, lookChan_run, hgc, t]
    cases g <;> simp
  have htg : Grew [] w t := by
    simp only [t]; split
    · exact (grew_boundary w).trans (grew_same (by simp))
    · exact .refl w
  have htk : Kept w t := by
    simp only [t]; split
    · exact (boundary_kept w).trans
        ⟨by simp, by simp, by simp, by simp, by simp, by simp, [], by simp⟩
    · exact .refl w
  refine ⟨t, run_seq ha (run_seq (updateChan_run _ _ _ _) (run_seq hst (run_seq hc1 (run_seq hw
    (run_seq hr rfl))))), ?_, hbk.trans (hck.trans (hwk.trans htk)), ?_, ?_⟩
  · simp only [t, refilled, ← hu]
    show controlPart (if g = true then _ else _) =
      controlPart (u.setChan .tx n { u.chan .tx n with work := (u.chan .tx n).work || g })
    cases hg : g
    · have : u.setChan .tx n { u.chan .tx n with work := (u.chan .tx n).work } = u := setChan_self u .tx n
      simp [hwc, this]
    · simp [hwc, control_chan hwc]
  · simpa using hbg.trans (hcg.trans (hwg.trans htg))
  · intro hs
    obtain ⟨q1, q2⟩ := hwq hs
    simp only [t, refilled, ← hu]
    show quietPart (if g = true then _ else _) = quietPart ((u.setChan .tx n
      { u.chan .tx n with work := (u.chan .tx n).work || g }).setHist _) ∧ _
    cases hg : g
    · have : u.setChan .tx n { u.chan .tx n with work := (u.chan .tx n).work } = u := setChan_self u .tx n
      simp [q2, q1, this]
    · simp [q2, q1, quietPart_boundary, control_chan hwc]

end Sys2Proof.Machine
end

