-- ==== Sys2Proof/Laws/Bodies.lean ====
section
/-! SUPPORT. What the bodies of RXDRAIN and TXCOMP do where their preconditions hold (43 R245, R258), which
WORK runs too (R262); and what a refill leaves in the ring (R255). -/

namespace Sys2Proof.Machine

theorem nextAccepted_congr {s t : State} (h : t.draws = s.draws) (k : Nat) :
    nextAccepted t k = nextAccepted s k := by simp [nextAccepted, h]

theorem nextStream_congr {s t : State} (h : t.draws = s.draws) : nextStream t = nextStream s := by
  simp [nextStream, h]

/-- A command with a lane operand ends as its body did. -/
theorem laneProgram_ended {i : Instr} {f : LaneField} {n : Lane} {body : Lane → Op Ret} {s u t : State}
    {r : Ret} {own : List Event} (ha : s.attached = true) (hn : laneOf s.cfg f = some n)
    (e : (body n).run (beginCommand i s) = .ok r t) (h : Did own (beginCommand i s) u t) :
    ∃ t', runCommand i (laneProgram i f body) s = .next t' ∧ Ended i r own s u t' :=
  ⟨endCommand i r (boundary t), by rw [laneProgram_run ha hn, e]; rfl, h.ended r⟩

/-- Only the control and quiet parts of the state aimed at matter. -/
theorem Did.congr {own : List Event} {s u v t : State} (h : Did own s u t) (e : quietPart u = quietPart v) :
    Did own s v t :=
  ⟨h.control.trans (controlPart_of_quietPart e), h.kept, h.grew, fun hs =>
    ⟨(h.quiet hs).1.trans (by simp [e]), (h.quiet hs).2⟩⟩

/-! ### RXDRAIN -/

/-- RXDRAIN of an owned lane that is not `Idle`, with bytes to read (R245). -/
theorem rxdrain_run (s : State) (n : Lane) (owner : Owner) (cb : Callback) (h : Word)
    (hrun : (s.chan .rx n).run ≠ .idle) (hslot : (s.chan .rx n).slot = .owned owner cb)
    (htail : (s.chan .rx n).tail < cap s.cfg .rx) (hb : (s.buf .rx n).toNat + cap s.cfg .rx ≤ 2 ^ 32)
    (hh : ((boundary s).bank .rx).hw[n.val] = h) (hlt : h.toNat < cap s.cfg .rx)
    (hne : h.toNat ≠ (s.chan .rx n).tail) :
    let acc := nextAccepted s (ringSub (ringMask s.cfg .rx) h.toNat (s.chan .rx n).tail)
    ∃ w t bs, (rxdrainBody n).run s = .ok (okValue acc) t ∧ bs.length = acc ∧
      Did (drainEvents owner n bs) s (drained s n h.toNat acc w) t ∧
      ((s.chan .rx n).work = true → w = true) ∧
      (s.sched = [] → w = (s.chan .rx n).work ∧ bs = ringBytes s .rx n (s.chan .rx n).tail acc) := by
  intro acc
  let b := boundary s
  let a := (boundary b).setChan .rx n { s.chan .rx n with head := h.toNat }
  obtain ⟨w, t, bs, ht, hl, hw, hc, hg, hq⟩ := drainBytes_run a n owner cb h
    (ringSub (ringMask s.cfg .rx) h.toNat (s.chan .rx n).tail)
    (by simpa [a, b] using hb) (by simpa [a] using hslot)
  have hz : ringSub (ringMask s.cfg .rx) h.toNat (s.chan .rx n).tail ≠ 0 := by
    rw [Ne, ringSub_eq_zero _ _ hlt htail]; exact hne
  have hacc : nextAccepted a (ringSub (ringMask s.cfg .rx) h.toNat (s.chan .rx n).tail) = acc :=
    nextAccepted_congr (by simp [a, b]) _
  rw [hacc] at ht hl hc hq
  have e : (rxdrainBody n).run s = .ok (okValue acc) t := by
    simp [rxdrainBody, drainActive, hrun, hh, hlt, drainFrom, hz]
    simpa [a, b] using ht
  have hga : Grew [] s a := by
    simpa [a, b] using (grew_boundary s).trans ((grew_boundary (boundary s)).trans
      (grew_same (t := a) (by simp [a, b])))
  refine ⟨w, t, bs, e, hl, ⟨?_, effects_kept_ok (fun _ => effects_rxdrainBody n) e, by simpa using hga.trans hg,
    ?_⟩, fun k => hw (by simpa [a] using k), fun hs => ?_⟩
  · rw [hc]; simp [a, b, drained]
  · intro hs
    have hs' : a.sched = [] := by simp [a, b, hs]
    refine ⟨?_, (hq hs').1⟩
    have q2 : quietPart (boundary b) = quietPart s := by simp [b, quietPart_boundary, hs]
    have e2 : a.hist = s.hist := by simp [a, quiet_hist q2]
    rw [(hq hs').2.2.2, e2]
    simp [a, drained, q2, b]
  · have hs' : a.sched = [] := by simp [a, b, hs]
    have q : quietPart b = quietPart s := by simp [b, quietPart_boundary, hs]
    have q2 : quietPart (boundary b) = quietPart s := by simp [b, quietPart_boundary, hs]
    obtain ⟨-, h2, h3, -⟩ := hq hs'
    refine ⟨?_, ?_⟩
    · rw [h3 ?_]
      · simp [a]
      · simp only [a, setChan_bank, quiet_bank q2]
        rw [quiet_bank q] at hh; exact hh
    · rw [h2]
      simp only [ringBytes, ringAddress, a]
      simp [quiet_mem q2, quiet_buf q2, b]

/-- RXDRAIN of a lane that is not `Idle`, with nothing to read (R247). -/
theorem rxdrain_nothing (s : State) (n : Lane) (hrun : (s.chan .rx n).run ≠ .idle)
    (htail : (s.chan .rx n).tail < cap s.cfg .rx)
    (hh : ((boundary s).bank .rx).hw[n.val].toNat = (s.chan .rx n).tail) :
    ∃ t, (rxdrainBody n).run s = .ok (okValue 0) t ∧
      Did [] s (s.setChan .rx n { s.chan .rx n with head := (s.chan .rx n).tail }) t := by
  have e : (rxdrainBody n).run s = .ok (okValue 0)
      ((boundary (boundary s)).setChan .rx n { s.chan .rx n with head := (s.chan .rx n).tail }) := by
    simp [rxdrainBody, drainActive, hrun, hh, htail, drainFrom, ringSub_self]
  refine ⟨_, e, by simp, effects_kept_ok (fun _ => effects_rxdrainBody n) e, ?_, fun hs => ?_⟩
  · simpa using (grew_boundary s).trans ((grew_boundary (boundary s)).trans (grew_same
      (t := (boundary (boundary s)).setChan .rx n { s.chan .rx n with head := (s.chan .rx n).tail }) (by simp)))
  · have hh : s.hist = (s.setChan .rx n { s.chan .rx n with head := (s.chan .rx n).tail }).hist := by simp
    refine ⟨?_, by simp [hs]⟩
    rw [List.append_nil, hh, setHist_self]
    simp [hs, quietPart_boundary]

/-! ### TXCOMP -/

/-- TXCOMP of a lane that is not `Idle`, its hardware pointer in range and on the forward path (R258). -/
theorem txcomp_run (s : State) (n : Lane) (r : Word) (hrun : (s.chan .tx n).run ≠ .idle)
    (hhead : (s.chan .tx n).head < cap s.cfg .tx) (hr : ((boundary s).bank .tx).hw[n.val] = r)
    (hlt : r.toNat < cap s.cfg .tx)
    (hpath : ringSub (ringMask s.cfg .tx) r.toNat (s.chan .tx n).tail ≤ pendingCount s .tx n) :
    ∃ w t, (txcompBody n).run s = .ok (okValue r.toNat) t ∧ Did [] s (completed s n r.toNat w) t ∧
      ((s.chan .tx n).work = true → w = true) ∧ (s.sched = [] → w = (s.chan .tx n).work) := by
  have hk : consumedOk s.cfg (s.chan .tx n) r.toNat = true := by
    simp only [consumedOk, Bool.and_eq_true, decide_eq_true_eq]; exact ⟨hlt, hpath⟩
  let a := (boundary (boundary s)).setChan .tx n { s.chan .tx n with tail := r.toNat }
  have hga : Grew [] s a := by
    simpa using (grew_boundary s).trans ((grew_boundary (boundary s)).trans (grew_same (t := a) (by simp [a])))
  have hah : s.sched = [] → a.hist = s.hist := fun hs => by
    have q2 : quietPart (boundary (boundary s)) = quietPart s := by simp [quietPart_boundary, hs]
    simp [a, quiet_hist q2]
  have ha : ∃ b, (rearm n).run a = .ok () b ∧ Grew [] a b ∧
      controlPart b = controlPart (completed s n r.toNat (s.chan .tx n).work) ∧
      (s.sched = [] → b.sched = [] ∧
        quietPart b = quietPart (completed s n r.toNat (s.chan .tx n).work)) := by
    by_cases he : (s.chan .tx n).head = r.toNat
    · refine ⟨a, by simp [rearm, a, he], .refl a, by simp [a, completed, he], fun hs => ?_⟩
      simp [a, completed, he, hs, quietPart_boundary]
    · have hst : (st32 (.sw .tx n) (toWord (s.chan .tx n).head)).run a =
          .ok () (published (boundary a) .tx n (s.chan .tx n).head) :=
        st32_sw_run _ (by simpa [a] using hhead)
      refine ⟨published (boundary a) .tx n (s.chan .tx n).head, ?_, silent_run_ok (silent_st32 _ _) hst,
        by simp [a, completed, he], fun hs => ?_⟩
      · simp [rearm, a, he]
        exact hst
      · simp [a, completed, he, hs, quietPart_boundary]
  obtain ⟨b, hb1, hbg, hb2, hb3⟩ := ha
  obtain ⟨t, ht, hd⟩ := recheck_run .tx n r b
  have hch : b.chan .tx n = { s.chan .tx n with tail := r.toNat } := by
    rw [control_chan hb2]; simp [completed]
  let w := (b.chan .tx n).work || decide (((boundary b).bank .tx).hw[n.val] ≠ r)
  have e : (txcompBody n).run s = .ok (okValue r.toNat) t := by
    simp [txcompBody, completeActive, hrun, hr, hk, completeTo]
    simp [a] at hb1
    simp [hb1, ht]
  refine ⟨w, t, e, ⟨?_, effects_kept_ok (fun _ => effects_txcompBody n) e,
    by simpa using hga.trans (hbg.trans hd.grew), fun hs => ?_⟩, fun hh => by simp [w, hch, hh], fun hs => ?_⟩
  · rw [hd.control]; simp [hb2, hch, completed, w]
  · obtain ⟨q1, q2⟩ := hd.quiet (hb3 hs).1
    refine ⟨?_, q2⟩
    have hbh : b.hist = s.hist := by
      rw [quiet_hist (hb3 hs).2]
      simp only [completed]
      split <;> simp
    rw [q1, hbh]; simp [(hb3 hs).2, hch, completed, w]
  · have hbw : ((boundary b).bank .tx).hw[n.val] = r := by
      rw [quiet_bank (quietPart_boundary (hb3 hs).1), quiet_bank (hb3 hs).2]
      rw [quiet_bank (quietPart_boundary hs)] at hr
      have : ((completed s n r.toNat (s.chan .tx n).work).bank .tx).hw = (s.bank .tx).hw := by
        simp only [completed]; split <;> simp
      rw [this]; exact hr
    simp [w, hch, hbw]

/-! ### What a refill leaves in the ring -/

/-- `k` bytes put at `start`, `start + 1`, … modulo the capacity read back, and no other byte changes. -/
theorem ringFilled_reads (s : State) (d : Dir) (n : Lane) (start : Nat) (data : List Byte)
    (hb : (s.buf d n).toNat + cap s.cfg d ≤ 2 ^ 32) (hstart : start < cap s.cfg d) (hm : Memory.wf s.mem) :
    ∀ k, k < cap s.cfg d →
      Memory.wf (ringFilled s d n start data k) ∧
      (∀ i < k, memRead (ringFilled s d n start data k) ((s.buf d n).toNat + (start + i) % cap s.cfg d) =
        streamByte data i) ∧
      (∀ a, (∀ i < k, a ≠ (s.buf d n).toNat + (start + i) % cap s.cfg d) →
        memRead (ringFilled s d n start data k) a = memRead s.mem a) := by
  intro k
  induction k with
  | zero => intro _; exact ⟨hm, fun i hi => absurd hi (Nat.not_lt_zero i), fun a _ => rfl⟩
  | succ k ih =>
    intro hk
    obtain ⟨h1, h2, h3⟩ := ih (by omega)
    have hlt := ringAdd_lt s.cfg d start k
    have hs : ringFilled s d n start data (k + 1) =
        memWrite (ringFilled s d n start data k)
          ((s.buf d n).toNat + (start + k) % cap s.cfg d) (streamByte data k) := by
      simp only [ringFilled, ringAddress, List.range_succ, List.foldl_append, List.foldl_cons,
        List.foldl_nil, ringAdd_eq_mod]
    rw [ringAdd_eq_mod] at hlt
    rw [hs]
    refine ⟨memWf_memWrite h1 (by omega) _, ?_, ?_⟩
    · intro i hi
      rw [memRead_memWrite h1]
      by_cases he : i = k
      · subst he; simp
      · rw [if_neg ?_, h2 i (by omega)]
        intro h
        have a1 := ringAdd_eq_mod s.cfg d start i
        have a2 := ringAdd_eq_mod s.cfg d start k
        rw [ringAdd_cases s.cfg d hstart (by omega)] at a1 a2
        split at a1 <;> split at a2 <;> omega
    · intro a ha
      rw [memRead_memWrite h1, if_neg (ha k (by omega))]
      exact h3 a fun i hi => ha i (by omega)

theorem refilled_mem (s : State) (n : Lane) (count : Nat) (data : List Byte) (k : Nat) :
    (refilled s n count data k).mem = ringFilled s .tx n (s.chan .tx n).head data k := by
  simp only [refilled, startedIfIdle]
  split <;> simp [triggered, produced, pulsed, State.withStill]

/-- A command's first boundary leaves the quiet part as it was, when no lane-agent step is scheduled. -/
theorem quietPart_boundary_beginCommand (i : Instr) {s : State} (h : s.sched = []) :
    quietPart (boundary (beginCommand i s)) = quietPart s :=
  (quietPart_boundary (s := beginCommand i s) h).trans rfl

end Sys2Proof.Machine
end

