-- ==== Sys2Proof/Laws/Micro.lean ====
section
/-! SUPPORT. Steps by their pace (log 29), and what one micro-step of a running command can do: what is left of
a command after what it has read, and the inversion of `Op.micro` (10_state R47, 20_memory R74). -/

namespace Sys2Proof.Machine

/-! ### A step, by pace -/

theorem step_unmarked {s : State} (hf : s.faulted = none) (hr : s.refused = false) : step s = paceStep s := by
  simp [step, hf, hr]

theorem step_command {s : State} (hf : s.faulted = none) (hr : s.refused = false) (hp : s.pace = .command) :
    step s = commandStep s := by
  rw [step_unmarked hf hr]; simp [paceStep, hp]

theorem step_lane {s : State} {l : LaneStep} {ls : List LaneStep} {rest : List (List LaneStep)}
    (hf : s.faulted = none) (hr : s.refused = false) (hp : s.pace = .atomic)
    (hs : s.sched = (l :: ls) :: rest) :
    step s = .next (laneStep { s with sched := ls :: rest } l) := by
  rw [step_unmarked hf hr]; simp [paceStep, hp, atomicStep, hs]

theorem step_control {s : State} (hf : s.faulted = none) (hr : s.refused = false) (hp : s.pace = .atomic)
    (hm : controlMoves s = true) : step s = controlTurn s := by
  rw [step_unmarked hf hr]
  simp only [paceStep, hp, atomicStep]
  simp only [controlMoves, hp] at hm
  split <;> simp_all

/-! ### What is left of a piece -/

variable {α : Type}

/-- A piece that has read one part and then another of its data. -/
theorem resume_append (c : Params) (x : Op α) : ∀ l m, (x.resume c l).resume c m = x.resume c (l ++ m) := by
  induction x with
  | done a => intro l m; rfl
  | stop r => intro l m; rfl
  | config g ih => intro l m; exact ih c l m
  | look g k ih =>
    intro l m
    cases l with
    | nil => rfl
    | cons y l => exact ih y l m
  | access g k ih =>
    intro l m
    cases l with
    | nil => rfl
    | cons y l => exact ih y l m

/-- Before it has read anything, all of a piece is left. -/
theorem resume_nil_run (x : Op α) : ∀ s : State, (x.resume s.cfg []).run s = x.run s := by
  induction x with
  | config g ih => intro s; exact ih s.cfg s
  | _ => intro s; rfl

theorem resume_nil_micro (x : Op Unit) : ∀ s : State, (x.resume s.cfg []).micro s = x.micro s := by
  induction x with
  | config g ih => intro s; exact ih s.cfg s
  | _ => intro s; rfl

/-! ### One micro-step -/

/-- Several data noted one after another. -/
def noted (l : List Datum) (s : State) : State := l.foldl (fun t x => remember x t) s

theorem noted_eq (l : List Datum) : ∀ s : State, ∃ m, noted l s = { s with seen := m } := by
  induction l with
  | nil => intro s; exact ⟨s.seen, rfl⟩
  | cons x l ih =>
    intro s
    obtain ⟨m, hm⟩ := ih (remember x s)
    refine ⟨m, hm.trans ?_⟩
    unfold remember
    split <;> rfl

theorem noted_cfg (l : List Datum) (s : State) : (noted l s).cfg = s.cfg := by
  obtain ⟨m, h⟩ := noted_eq l s
  rw [h]

theorem noted_running {s : State} {c : Instr × Nat} (h : s.cur = some c) :
    ∀ l, noted l s = { s with seen := s.seen ++ l } := by
  intro l
  induction l generalizing s with
  | nil => simp [noted]
  | cons x l ih =>
    have e : remember x s = { s with seen := s.seen ++ [x] } := by unfold remember; rw [h]
    have e2 : (remember x s).cur = some c := by rw [e]; exact h
    have := ih e2
    rw [e] at this
    simp only [noted, List.foldl_cons, e]
    simpa [noted] using this

/-- What running a piece up to and with its next micro-step can do. It looks at some control-unit state,
which it notes; then it is done, and nothing else happens, or it takes one access, at the boundary, and notes
what that gave. -/
theorem micro_cases {x : Op Unit} {s t : State} (h : x.micro s = .next t) :
    (∃ l, x.resume s.cfg l = .done () ∧ t = noted l s) ∨
    ∃ l f k y u, x.resume s.cfg l = .access f k ∧ f (boundary (noted l s)) = .ok (y, u) ∧ t = remember y u := by
  induction x generalizing s with
  | done a =>
    cases h
    exact .inl ⟨[], rfl, rfl⟩
  | stop r => cases r <;> cases h
  | config g ih => exact ih s.cfg h
  | look g k ih =>
    have e : (remember (g s) s).cfg = s.cfg := noted_cfg [g s] s
    rcases ih (g s) h with ⟨l, h1, h2⟩ | ⟨l, f, m, y, u, h1, h2, h3⟩
    · rw [e] at h1
      exact .inl ⟨g s :: l, h1, h2⟩
    · rw [e] at h1
      exact .inr ⟨g s :: l, f, m, y, u, h1, h2, h3⟩
  | access g k ih =>
    simp only [Op.micro] at h
    split at h
    · rename_i y u e
      cases h
      exact .inr ⟨[], g, k, y, u, rfl, e, rfl⟩
    · rename_i r e
      cases r <;> cases h

/-- A micro-step is related by what relates each micro-step of its piece. -/
theorem each_micro {c : Params} {R : State → State → Prop} {x : Op Unit} (h : x.each c R) {s t : State}
    (hc : s.cfg = c) (e : x.micro s = .next t) :
    (∃ l, t = noted l s) ∨ ∃ l y u, R (boundary (noted l s)) u ∧ t = remember y u := by
  subst hc
  rcases micro_cases e with ⟨l, -, h2⟩ | ⟨l, f, k, y, u, h1, h2, h3⟩
  · exact .inl ⟨l, h2⟩
  · refine .inr ⟨l, y, u, ?_, h3⟩
    have := each_resume h l
    rw [h1] at this
    exact this.1 _ _ _ (by rw [boundary_cfg, noted_cfg]) h2

/-- One micro-step of a command that runs is one effect, after the boundary. -/
theorem pendingProgram_micro {i : Instr} {s t : State} (e : (pendingProgram s i).micro s = .next t) :
    (∃ l, t = noted l s) ∨ ∃ l y u, Effect s.cfg (boundary (noted l s)) u ∧ t = remember y u := by
  unfold pendingProgram at e
  split at e
  · rename_i x hx
    exact each_micro (each_resume (commandOf_effects hx) _) rfl e
  · cases e
    exact .inl ⟨[], rfl⟩

end Sys2Proof.Machine
end

