-- ==== Sys2Proof/Tests/Slice0.lean ====
section
/-! SUPPORT. Our own tests: the well-formedness smoke test, words written out from the spec's encodings,
single steps from the vectors of spec/95_test_vectors.md, and a witness for the hypotheses of each
obligation. -/

namespace Sys2Proof.Tests

open Sys2Proof Sys2Proof.Machine

-- one theorem after another: each waits for the kernel, and a thread for each would exhaust the sandbox
set_option Elab.async false

/-! ### The configuration of the vectors (95, header) and small states -/

/-- `N = 12`, `CAP = 16`, `BUF_ALIGN = 4`, `REFILL_UNIT = 16`, `LOW_WATER = 1`, rings at 0x40000000 + 0x100·n. -/
def cfg : Params :=
  { numLanes := 12
    capTxLog := 3
    capRxLog := 3
    rxBufPhys := tabulate fun n => BitVec.ofNat 32 (0x40000000 + 0x100 * n.val)
    regBase := 0xF0000000
    sizeClass := 0x33
    timeoutValue := 0x64
    refillPred := 15
    lowWater := 1
    hwMayCorrupt := false
    regEndian := .little
    bufAlignLog := 2 }

/-- The state ATTACH leaves (R50), with nothing scheduled, the reserved bits of the next reads drawn, and a step
doing one instruction. -/
def idle : State :=
  { State.reset with
    cfg := cfg
    tx := { Bank.reset with ier := laneMask cfg }
    rx := { Bank.reset with ier := laneMask cfg, base := cfg.rxBufPhys }
    bufSz := 0x33
    rxTimeout := 0x64
    attached := true
    sched := []
    pace := .command
    draws := { reserved := List.replicate 30 0, accepted := [3], stream := [(10, [1, 2, 3, 4, 5, 6, 7, 8, 9, 10])],
               count := 0 } }

/-- Power-on, before ATTACH, with the configuration fixed and nothing scheduled. -/
def fresh : State := { State.reset with cfg := cfg, sched := [], pace := .command }

def ownerA : Owner := ⟨1⟩
def ownerP : Owner := ⟨2⟩
def callbackK : Callback := ⟨3⟩

/-- A receive lane owned by A, in run state `r`, with hardware pointer `hw` and `head = tail = RX_RD`. -/
def rxLane (s : State) (n : Lane) (r : RunState) (hw tail : Nat) : State :=
  ((((s.setChan .rx n { slot := .owned ownerA callbackK, run := r, head := tail, tail := tail, work := false }).withHw
    .rx n (toWord hw)).withSw .rx n (toWord tail)).withEn .rx
      (if r = .armed then withLaneBit s.cfg s.rx.en n else s.rx.en))

/-- A transmit lane owned by P, its ring at 0x80000000 + 0x100·n, with `TX_RD = hw` and `TX_WR = head`. -/
def txLane (s : State) (n : Lane) (r : RunState) (head tail hw : Nat) : State :=
  let a : Word := BitVec.ofNat 32 (0x80000000 + 0x100 * n.val)
  ((((((s.setChan .tx n { slot := .owned ownerP callbackK, run := r, head := head, tail := tail, work := false }).withHw
    .tx n (toWord hw)).withSw .tx n (toWord head)).withBase .tx n a).setTxBuf n a).withEn .tx
      (if r = .armed then withLaneBit s.cfg s.tx.en n else s.tx.en))

/-- The status bit of a lane set. -/
def pendingAt (s : State) (d : Dir) (n : Lane) : State := s.withIsr d (latch (s.bank d).isr n)

/-- Hardware that may corrupt pointers. -/
def faulty (s : State) : State := { s with cfg := { s.cfg with hwMayCorrupt := true } }

/-- The outcome is a next state of which `p` holds. -/
def goes (o : Host.Outcome State Fault Refusal) (p : State → Bool) : Bool :=
  match o with
  | .next t => p t
  | _ => false

/-- The outcome is this fault. -/
def faults (o : Host.Outcome State Fault Refusal) (r : Fault) : Bool :=
  match o with
  | .fault q => decide (q = r)
  | _ => false

/-- The outcome is this refusal. -/
def refuses (o : Host.Outcome State Fault Refusal) (r : Refusal) : Bool :=
  match o with
  | .refused q => decide (q = r)
  | _ => false

/-- The last event is a command's result with this code and value. -/
def answered (t : State) (i : Instr) (c : Code) (v : Option Nat) : Bool :=
  decide (t.hist.getLast? = some (.result i c v))

/-! ### Well-formedness (R100) -/

theorem test_wellFormed_short_data_refused : (Instr.txprod 0 3 [1, 2]).wellFormed cfg = false := by decide
theorem test_wellFormed_long_enough : (Instr.txprod 0 3 [1, 2, 3]).wellFormed cfg = true := by decide
theorem test_wellFormed_capacity_suffices :
    (Instr.txprod 0 99 (List.replicate 16 7)).wellFormed cfg = true := by decide

theorem test_wellFormed_no_such_register : (Instr.ld32TxRd 12).wellFormed cfg = false ∧
    (Instr.st32RxBase 31 0).wellFormed cfg = false ∧ (Instr.st32RxBase 11 0).wellFormed cfg = true := by decide

/-! ### Words written out from R91 to R97 (X8, the table of 95 section 3) -/

theorem test_decode_global_reads :
    decodeTableWord 16 0x0000 = some .ld32TxEn ∧ decodeTableWord 16 0x0004 = some .ld32RxEn ∧
    decodeTableWord 16 0x0008 = some .ld32BufSz ∧ decodeTableWord 16 0x000C = some .ld32RxTimeout ∧
    decodeTableWord 16 0x0020 = some .ld32TxRst ∧ decodeTableWord 16 0x0024 = some .ld32RxRst ∧
    decodeTableWord 16 0x0030 = some .ld32TxIer ∧ decodeTableWord 16 0x0034 = some .ld32TxIsr ∧
    decodeTableWord 16 0x0038 = some .ld32RxIer ∧ decodeTableWord 16 0x003C = some .ld32RxIsr := by decide

theorem test_decode_global_writes :
    decode 12 (.mmio .w32 0x1000 5) = .ok (.st32TxEn 5) ∧ decode 12 (.mmio .w32 0x1004 5) = .ok (.st32RxEn 5) ∧
    decode 12 (.mmio .w32 0x1008 5) = .ok (.st32BufSz 5) ∧
    decode 12 (.mmio .w32 0x100C 5) = .ok (.st32RxTimeout 5) ∧
    decode 12 (.mmio .w32 0x1020 5) = .ok (.st32TxRst 5) ∧ decode 12 (.mmio .w32 0x1024 5) = .ok (.st32RxRst 5) ∧
    decode 12 (.mmio .w32 0x1030 5) = .ok (.st32TxIer 5) ∧ decode 12 (.mmio .w32 0x1034 5) = .ok (.st32TxIsr 5) ∧
    decode 12 (.mmio .w32 0x1038 5) = .ok (.st32RxIer 5) ∧ decode 12 (.mmio .w32 0x103C 8) = .ok (.st32RxIsr 8) := by
  decide

theorem test_decode_lane_reads :
    decode 12 (.mmio .w32 0x0040 0) = .ok (.ld32TxRd 0) ∧ decode 12 (.mmio .w32 0x00A4 0) = .ok (.ld32TxWr 3) ∧
    decode 12 (.mmio .w32 0x01A8 0) = .ok (.ld32TxBase 11) ∧ decode 12 (.mmio .w32 0x00B0 0) = .ok (.ld32RxRd 3) ∧
    decode 12 (.mmio .w32 0x00B4 0) = .ok (.ld32RxWr 3) ∧ decode 12 (.mmio .w32 0x0058 0) = .ok (.ld32RxBase 0) := by
  decide

theorem test_decode_lane_writes :
    decode 12 (.mmio .w32 0x11A0 7) = .ok (.st32TxRd 11 7) ∧ decode 12 (.mmio .w32 0x1044 7) = .ok (.st32TxWr 0 7) ∧
    decode 12 (.mmio .w32 0x10A8 8) = .ok (.st32TxBase 3 8) ∧ decode 12 (.mmio .w32 0x10B0 7) = .ok (.st32RxRd 3 7) ∧
    decode 12 (.mmio .w32 0x11B4 7) = .ok (.st32RxWr 11 7) ∧
    decode 12 (.mmio .w32 0x11B8 8) = .ok (.st32RxBase 11 8) := by decide

theorem test_decode_commands :
    decodeTableWord 32 0x00000001 = some .attach ∧ decodeTableWord 32 0x00000002 = some .detach ∧
    decodeTableWord 32 0x0000000A = some .dispatch ∧ decodeTableWord 32 0x00000074 = some (.trigger .rx 3) ∧
    decodeTableWord 32 0x000003E4 = some (.trigger .tx 31) ∧ decodeTableWord 32 0x00000005 = some (.stop .tx 0) ∧
    decodeTableWord 32 0x00000076 = some (.pause .rx 3) ∧ decodeTableWord 32 0x000000D7 = some (.release .rx 6) ∧
    decodeTableWord 32 0x00000079 = some (.rdhw .rx 3) ∧ decodeTableWord 32 0x0000007B = some (.rxdrain 3) ∧
    decodeTableWord 32 0x0000000D = some (.txcomp 0) ∧ decodeTableWord 32 0x0000007E = some (.work .rx 3) := by
  decide

theorem test_decode_operand_records :
    decode 12 (.cmd 0x00000003 { zeroOperands with owner := ownerP, cb := callbackK, addr := 0x80000000 }) =
      .ok (.claimTx 0 ownerP callbackK 0x80000000) ∧
    decode 12 (.cmd 0x00000073 { zeroOperands with owner := ownerA, cb := callbackK }) =
      .ok (.claimRx 3 ownerA callbackK) ∧
    decode 12 (.cmd 0x00000038 { zeroOperands with val := 6 }) = .ok (.updsw .rx 1 6) ∧
    decode 12 (.cmd 0x0000000C { zeroOperands with count := 2, data := [8, 9] }) = .ok (.txprod 0 2 [8, 9]) := by
  decide

theorem test_decode_refused_words :
    decode 12 (.cmd 0x00000000 zeroOperands) = .error .illegalCommand ∧
    decode 12 (.cmd 0x0000000F zeroOperands) = .error .illegalCommand ∧
    decode 12 (.cmd 0x00000401 zeroOperands) = .error .illegalCommand ∧
    decode 12 (.cmd 0x00000011 zeroOperands) = .error .illegalCommand ∧
    decode 12 (.cmd 0x0000002A zeroOperands) = .error .illegalCommand ∧
    decode 12 (.cmd 0x0000000B zeroOperands) = .error .illegalCommand ∧
    decode 12 (.cmd 0x0000001C zeroOperands) = .error .illegalCommand ∧
    decode 12 (.cmd 0x0000001D zeroOperands) = .error .illegalCommand := by decide

theorem test_decode_faulting_offsets :
    decode 12 (.mmio .w32 0x0002 0) = .error .misalignedRegister ∧
    decode 12 (.mmio .w32 0x0010 0) = .error .unmappedRegister ∧
    decode 12 (.mmio .w32 0x002C 0) = .error .unmappedRegister ∧
    decode 12 (.mmio .w32 0x004C 0) = .error .unmappedRegister ∧
    decode 12 (.mmio .w32 0x005C 0) = .error .unmappedRegister ∧
    decode 12 (.mmio .w32 0x01C0 0) = .error .unmappedRegister ∧
    decode 32 (.mmio .w32 0x01C0 0) = .ok (.ld32TxRd 12) ∧ decode 32 (.mmio .w32 0x0438 0) = .ok (.ld32RxBase 31) ∧
    decode 32 (.mmio .w32 0x0440 0) = .error .unmappedRegister ∧
    decode 12 (.mmio .w16 0x0000 0) = .error .registerWidth := by decide

/-! ### Pointer arithmetic (95 section 2) -/

theorem test_pointer_arithmetic :
    ringAdd 15 14 2 = 0 ∧ ringAdd 15 15 1 = 0 ∧ ringAdd 15 14 8 = 6 ∧ ringSub 15 6 14 = 8 ∧
    ringSub 15 0 1 = 15 ∧ ringSub 15 5 5 = 0 ∧ ringSub 15 13 14 = 15 ∧ ringAdd 1 1 1 = 0 ∧
    ringAdd (2 ^ 31 - 1) (2 ^ 31 - 1) 1 = 0 := by decide +kernel

/-! ### The step -/

theorem test_step_takes_packet :
    goes (step { idle with inbox := [.mmio .w32 0x1000 5] }) (fun t => t.tx.en == 5 && t.inbox.isEmpty) = true := by
  decide +kernel
theorem test_step_runs_fetched_word :
    goes (step (fresh.withFetchWord 16 0x100C)) (fun t => t.rxTimeout == 0) = true := by decide +kernel
theorem test_step_refuses_illegal_word :
    refuses (step { idle with inbox := [.cmd 0 zeroOperands] }) .illegalCommandWord = true := by decide +kernel
theorem test_step_faults_on_narrow_access :
    faults (step { idle with inbox := [.mmio .w8 0x0000 0] }) .registerWidth = true := by decide +kernel

/-- R47: at atomic pace a step is one lane-agent step or one micro-step, and `cur` counts the latter -/
theorem test_step_atomic :
    (let s : State := { rxLane idle 3 .armed 9 4 with
      pace := .atomic, inbox := [.cmd 0x76 zeroOperands], sched := [[.status .rx 3]] }
    goes (Host.Core.run Sys2Proof.core 1 s) (fun t => t.cur == none && t.rx.isr == 8)
      && goes (Host.Core.run Sys2Proof.core 2 s) (fun t => t.cur == some (.pause .rx 3, 1) && t.rx.en == 8)
      && goes (Host.Core.run Sys2Proof.core 3 s) (fun t => t.cur == some (.pause .rx 3, 2) && t.rx.en == 0)
      && goes (Host.Core.run Sys2Proof.core 5 s) (fun t => t.cur == none
        && answered t (.pause .rx 3) .ok none)) = true := by decide +kernel

/-! ### Register accesses (95 section 4) -/

/-- RG1, RG2 -/
theorem test_st32TxEn : goes (exec (.st32TxEn 0x005) idle) (fun t => laneActive t .tx 0 && laneActive t .tx 2
    && !laneActive t .tx 1) = true := by decide +kernel
theorem test_st32TxEn_reserved : faults (exec (.st32TxEn 0x1000) idle) .reservedBitWrite = true := by
  decide +kernel
/-- R124's example -/
theorem test_st32RxEn : goes (exec (.st32RxEn 0x800) idle) (fun t => laneActive t .rx 11
    && !laneActive t .rx 10) = true := by decide +kernel
/-- RG3: bits 31:12 are the draw -/
theorem test_ld32TxEn :
    goes (exec .ld32TxEn { idle.withEn .tx 0x004 with draws := { idle.draws with reserved := [0xABCDEFFF] } })
      (fun t => t.readData == some 0xABCDE004) = true := by decide +kernel
theorem test_ld32RxEn :
    goes (exec .ld32RxEn (idle.withEn .rx 0x808)) (fun t => t.readData == some 0x808) = true := by decide +kernel
/-- RG18, RG19 -/
theorem test_st32BufSz_enabled : faults (exec (.st32BufSz 0x33) (idle.withEn .rx 0x008)) .configWhileEnabled = true := by
  decide +kernel
theorem test_st32BufSz_unknown : refuses (exec (.st32BufSz 0x34) idle) .unknownSizeClass = true := by
  decide +kernel
theorem test_ld32BufSz : goes (exec .ld32BufSz idle) (fun t => t.readData == some 0x33) = true := by
  decide +kernel
/-- RG20 -/
theorem test_st32RxTimeout : goes (exec (.st32RxTimeout 0) idle) (fun t => t.rxTimeout == 0) = true := by
  decide +kernel
theorem test_ld32RxTimeout : goes (exec .ld32RxTimeout idle) (fun t => t.readData == some 0x64) = true := by
  decide +kernel
/-- RG9 -/
theorem test_st32TxRst : goes (exec (.st32TxRst 0x010) (txLane (txLane idle 4 .armed 9 5 5) 5 .armed 9 5 5))
    (fun t => t.tx.hw[4] == 0 && t.tx.sw[4] == 0 && !laneActive t .tx 4 && t.tx.hw[5] == 5) = true := by decide +kernel
theorem test_ld32TxRst : goes (exec .ld32TxRst (idle.withRst .tx 0x010)) (fun t => t.readData == some 0x010) = true := by
  decide +kernel
theorem test_st32RxRst : goes (exec (.st32RxRst 0x001) (rxLane idle 0 .armed 9 4))
    (fun t => t.rx.hw[0] == 0 && t.rx.sw[0] == 0 && t.rx.rst == 1) = true := by decide +kernel
theorem test_ld32RxRst : goes (exec .ld32RxRst (idle.withRst .rx 0x801)) (fun t => t.readData == some 0x801) = true := by
  decide +kernel
/-- RG21 -/
theorem test_st32TxIer : goes (exec (.st32TxIer 0x002) (pendingAt (idle.withIer .tx 0) .tx 1)) interruptLine = true := by
  decide +kernel
theorem test_ld32TxIer : goes (exec .ld32TxIer idle) (fun t => t.readData == some 0xFFF) = true := by
  decide +kernel
theorem test_st32RxIer : goes (exec (.st32RxIer 0) (pendingAt idle .rx 1)) (fun t => !interruptLine t) = true := by
  decide +kernel
theorem test_ld32RxIer : goes (exec .ld32RxIer (idle.withIer .rx 0x20)) (fun t => t.readData == some 0x20) = true := by
  decide +kernel
/-- RG4 -/
theorem test_st32TxIsr : goes (exec (.st32TxIsr 0x2) (idle.withIsr .tx 0xB)) (fun t => t.tx.isr == 0x9) = true := by
  decide +kernel
theorem test_ld32TxIsr : goes (exec .ld32TxIsr (idle.withIsr .tx 0xA)) (fun t => t.readData == some 0xA
    && t.tx.isr == 0xA) = true := by decide +kernel
/-- RG5, RG7 -/
theorem test_st32RxIsr : goes (exec (.st32RxIsr 0x800) (idle.withIsr .rx 0x801)) (fun t => t.rx.isr == 1) = true := by
  decide +kernel
theorem test_st32RxIsr_reserved : goes (exec (.st32RxIsr 0x80000000) (idle.withIsr .rx 1)) (fun t => t.rx.isr == 1) = true := by
  decide +kernel
theorem test_ld32RxIsr : goes (exec .ld32RxIsr (idle.withIsr .rx 1)) (fun t => t.readData == some 1 && t.rx.isr == 1) = true := by
  decide +kernel
/-- R141's example, R149's, and the other pointers -/
theorem test_ld32_pointers :
    goes (exec (.ld32TxRd 3) (txLane idle 3 .armed 10 0 3)) (fun t => t.readData == some 3) = true ∧
    goes (exec (.ld32TxWr 3) (txLane idle 3 .armed 10 0 3)) (fun t => t.readData == some 10) = true ∧
    goes (exec (.ld32TxBase 3) (txLane idle 3 .armed 10 0 3)) (fun t => t.readData == some 0x80000300) = true ∧
    goes (exec (.ld32RxRd 3) (rxLane idle 3 .armed 6 14)) (fun t => t.readData == some 14) = true ∧
    goes (exec (.ld32RxWr 3) (rxLane idle 3 .armed 6 14)) (fun t => t.readData == some 6) = true ∧
    goes (exec (.ld32RxBase 11) idle) (fun t => t.readData == some 0x40000B00) = true := by decide +kernel
/-- RG12, RG13 -/
theorem test_st32TxRd : faults (exec (.st32TxRd 2 0) (idle.withEn .tx 4)) .hwPointerWriteWhileEnabled = true ∧
    faults (exec (.st32TxRd 2 16) idle) .pointerRange = true := by decide +kernel
theorem test_st32TxRd_written : goes (exec (.st32TxRd 2 15) idle) (fun t => t.tx.hw[2] == 15) = true := by
  decide +kernel
/-- RG10 -/
theorem test_st32TxWr_in_reset : goes (exec (.st32TxWr 4 3) (idle.withRst .tx 0x010)) (fun t => t.tx.sw[4] == 0) = true := by
  decide +kernel
theorem test_st32TxWr : goes (exec (.st32TxWr 4 3) (idle.withEn .tx 0x010)) (fun t => t.tx.sw[4] == 3) = true := by
  decide +kernel
/-- RG17 -/
theorem test_st32TxBase : faults (exec (.st32TxBase 0 0x80000002) idle) .baseAlign = true ∧
    goes (exec (.st32TxBase 0 0x80000000) idle) (fun t => t.tx.base[0] == 0x80000000) = true := by decide +kernel
/-- RG14 -/
theorem test_st32RxRd : goes (exec (.st32RxRd 1 6) (rxLane idle 1 .armed 9 4)) (fun t => t.rx.sw[1] == 6) = true := by
  decide +kernel
/-- RG15 -/
theorem test_st32RxWr : faults (exec (.st32RxWr 1 0) (rxLane idle 1 .armed 9 4)) .hwPointerWriteWhileEnabled = true ∧
    goes (exec (.st32RxWr 1 2) idle) (fun t => t.rx.hw[1] == 2) = true := by decide +kernel
/-- RG16 -/
theorem test_st32RxBase : faults (exec (.st32RxBase 1 0x40000100) (rxLane idle 1 .armed 9 4)) .baseWriteWhileEnabled = true ∧
    goes (exec (.st32RxBase 1 0x40000104) idle) (fun t => t.rx.base[1] == 0x40000104) = true := by decide +kernel

/-! ### Lane agents (95 section 5) -/

/-- LA1, LA2 -/
theorem test_rxByte : (let t := laneStep (rxLane idle 3 .armed 15 4) (.rxByte 3 0x41)
    memRead t.mem 0x4000030F == 0x41 && t.rx.hw[3] == 0 && decide (t.hist = [.lineRx 3 0x41])) = true := by
  decide +kernel
theorem test_rxByte_full : laneStep (rxLane idle 3 .armed 3 4) (.rxByte 3 0x41) = rxLane idle 3 .armed 3 4 := by
  decide +kernel
/-- LA4, LA5 -/
theorem test_txByte : (let t := laneStep { txLane idle 0 .armed 2 15 15 with mem := [(0x8000000F, 0x55)] } (.txByte 0)
    t.tx.hw[0] == 0 && t.txMoved[0] && decide (t.hist = [.lineTx 0 0x55])) = true := by decide +kernel
theorem test_txByte_empty : laneStep (txLane idle 0 .armed 7 7 7) (.txByte 0) = txLane idle 0 .armed 7 7 7 := by
  decide +kernel
/-- LA6, LA3 -/
theorem test_status : (let t := laneStep { txLane idle 0 .armed 7 7 7 with txMoved := perLane true } (.status .tx 0)
    t.tx.isr == 1 && !t.txMoved[0] && t.txMoved[1]) = true := by decide +kernel
theorem test_status_in_reset : laneStep ((rxLane idle 3 .armed 0 0).withRst .rx 8) (.status .rx 3) =
    (rxLane idle 3 .armed 0 0).withRst .rx 8 := by decide +kernel
/-- LA8 -/
theorem test_corrupt : (let t := laneStep (faulty (rxLane idle 3 .armed 9 4)) (.corrupt .rx 3 0x20)
    t.rx.hw[3] == 0x20 && laneStep t (.rxByte 3 1) == t) = true := by decide +kernel

/-! ### Channel control (95 section 6) -/

/-- CC1, CC2, CC3 -/
theorem test_not_attached : faults (exec (.trigger .rx 3) fresh) .notAttached = true := by decide +kernel
theorem test_attach_twice : faults (exec .attach idle) .alreadyAttached = true := by decide +kernel
theorem test_no_such_lane : goes (exec (.trigger .rx 12) idle) (fun t =>
    answered t (.trigger .rx 12) .invalidChannel (some 12)) = true := by decide +kernel
/-- R192's example, from a power-on state with stale values -/
theorem test_attach :
    goes (exec .attach { fresh with rx := { Bank.reset with en := 0x3, isr := 0x5, hw := perLane 99, sw := perLane 77 } })
      (fun t => t.rx.en == 0 && t.rx.rst == 0 && t.rx.isr == 0 && t.tx.ier == 0xFFF && t.rx.ier == 0xFFF
        && (cfg.lanes.all fun n => t.rx.hw[n.val] == 0 && t.rx.sw[n.val] == 0 && t.rx.base[n.val] == cfg.rxBufPhys[n.val])
        && t.attached && t.bufSz == 0x33 && t.rxTimeout == 0x64) = true := by decide +kernel
/-- CC4, CC5 -/
theorem test_claimRx : goes (exec (.claimRx 3 ownerA callbackK) idle) (fun t =>
    answered t (.claimRx 3 ownerA callbackK) .ok (some 0x40000300)
      && (t.chan .rx 3).slot == .owned ownerA callbackK) = true := by decide +kernel
theorem test_claimRx_busy : goes (exec (.claimRx 3 ownerP callbackK) (rxLane idle 3 .idle 0 0)) (fun t =>
    answered t (.claimRx 3 ownerP callbackK) .busy none && (t.chan .rx 3).slot == .owned ownerA callbackK) = true := by
  decide +kernel
/-- CC6, CC7, CC8 -/
theorem test_claimTx : goes (exec (.claimTx 0 ownerP callbackK 0x80000000) idle) (fun t =>
    t.tx.base[0] == 0x80000000 && t.txBuf[0] == 0x80000000 && (t.chan .tx 0).slot == .owned ownerP callbackK) = true := by
  decide +kernel
theorem test_claimTx_faults :
    faults (exec (.claimTx 1 ownerP callbackK 0x80000002) idle) .baseAlign = true ∧
    faults (exec (.claimTx 1 ownerP callbackK 0x80000008) (txLane idle 0 .idle 0 0 0)) .overlap = true := by
  decide +kernel
/-- CC10 after STOP with RX_WR = 9, tail = 4 (X3) -/
theorem test_trigger_rx : goes (exec (.trigger .rx 3) (rxLane idle 3 .idle 9 4)) (fun t =>
    t.rx.hw[3] == 0 && t.rx.sw[3] == 0 && t.rx.en == 8 && (t.chan .rx 3).run == .armed
      && (t.chan .rx 3).tail == 0) = true := by decide +kernel
/-- X3 on a transmit lane, head = tail = 7 -/
theorem test_trigger_tx : goes (exec (.trigger .tx 0) (txLane idle 0 .idle 7 7 0)) (fun t =>
    t.tx.hw[0] == 7 && t.tx.sw[0] == 7 && t.tx.en == 1) = true := by decide +kernel
/-- CC14 -/
theorem test_trigger_paused : goes (exec (.trigger .rx 3) (rxLane idle 3 .paused 9 4)) (fun t =>
    t.rx.hw[3] == 9 && t.rx.sw[3] == 4 && laneEnabled t .rx 3 && (t.chan .rx 3).run == .armed) = true := by
  decide +kernel
/-- CC12, CC13 -/
theorem test_pause : goes (exec (.pause .rx 3) (rxLane idle 3 .armed 9 4)) (fun t =>
    t.rx.hw[3] == 9 && t.rx.sw[3] == 4 && t.rx.en == 0 && (t.chan .rx 3).run == .paused) = true := by decide +kernel
theorem test_pause_twice : goes (exec (.pause .rx 3) (rxLane idle 3 .paused 9 4)) (fun t =>
    answered t (.pause .rx 3) .invalidState none) = true := by decide +kernel
/-- CC15, CC16 -/
theorem test_stop_rx : goes (exec (.stop .rx 3) (rxLane idle 3 .armed 9 4)) (fun t =>
    t.rx.hw[3] == 0 && t.rx.sw[3] == 0 && t.rx.en == 0 && t.rx.base[3] == 0x40000300
      && (t.chan .rx 3) == { slot := .owned ownerA callbackK, run := .idle, head := 0, tail := 0, work := false }) = true := by
  decide +kernel
theorem test_stop_tx : goes (exec (.stop .tx 0) (txLane idle 0 .armed 7 3 3)) (fun t =>
    t.tx.hw[0] == 0 && t.tx.sw[0] == 0 && t.tx.base[0] == 0x80000000 && (t.chan .tx 0).tail == 7) = true := by
  decide +kernel
/-- CC19, CC18 -/
theorem test_release : goes (exec (.release .tx 0) (txLane idle 0 .armed 7 3 3)) (fun t =>
    t.tx.base[0] == 0 && t.txBuf[0] == 0 && (t.chan .tx 0) == Chan.reset) = true := by decide +kernel
theorem test_release_free : goes (exec (.release .rx 6) idle) (fun t =>
    answered t (.release .rx 6) .notOwned none) = true := by decide +kernel
/-- CC20 -/
theorem test_detach : goes (exec .detach (pendingAt (rxLane idle 3 .armed 9 4) .rx 3)) (fun t =>
    t.rx.en == 0 && t.tx.ier == 0 && t.rx.ier == 0 && !t.attached && (t.chan .rx 3) == Chan.reset
      && sourcePending t .rx 3) = true := by decide +kernel

/-! ### Ring protocol (95 section 7) -/

/-- RP1, RP2 -/
theorem test_updsw : goes (exec (.updsw .rx 1 6) (rxLane idle 1 .armed 9 4)) (fun t =>
    (t.chan .rx 1).tail == 6 && t.rx.sw[1] == 6) = true := by decide +kernel
theorem test_updsw_range : goes (exec (.updsw .rx 1 16) (rxLane idle 1 .armed 9 4)) (fun t =>
    answered t (.updsw .rx 1 16) .invalidPointer none) = true := by decide +kernel
/-- RP4, RP5 -/
theorem test_rdhw : goes (exec (.rdhw .rx 3) (rxLane idle 3 .armed 6 4)) (fun t =>
    answered t (.rdhw .rx 3) .ok (some 6)) = true := by decide +kernel
theorem test_rdhw_corrupt : goes (exec (.rdhw .rx 3) (faulty (rxLane idle 3 .armed 0x20 4))) (fun t =>
    decide (t.hist = [.anomaly .corruptPointer (some .rx) (some 3), .ioError ownerA .rx 3,
      .result (.rdhw .rx 3) .corruptPointer none]) && (t.chan .rx 3).run == .idle) = true := by decide +kernel
/-- RP8 with the ring bytes 0xE, 0xF, 0x10 at indices 14, 15, 0 -/
theorem test_rxdrain : goes (exec (.rxdrain 3)
      { rxLane idle 3 .armed 6 14 with mem := [(0x40000300, 0x10), (0x4000030E, 0xE), (0x4000030F, 0xF)] })
    (fun t => decide (t.hist = [.deliver ownerA 3 [0xE, 0xF, 0x10], .bytesAvailable ownerA 3,
      .result (.rxdrain 3) .ok (some 3)]) && (t.chan .rx 3).tail == 1 && t.rx.sw[3] == 1) = true := by decide +kernel
/-- RP10, R74: a byte arrives between the `Deliver` and the `BytesAvailable` of a drain, which is rescheduled -/
theorem test_rxdrain_rescheduled : goes (exec (.rxdrain 3)
      { rxLane idle 3 .armed 1 0 with sched := [[], [], [], [], [], [.rxByte 3 9]] })
    (fun t => decide (t.hist = [.deliver ownerA 3 [0], .lineRx 3 9, .bytesAvailable ownerA 3,
      .result (.rxdrain 3) .ok (some 1)]) && (t.chan .rx 3).work) = true := by decide +kernel
/-- RP11 -/
theorem test_txprod : goes (exec (.txprod 0 10 [1, 2, 3, 4, 5, 6, 7, 8, 9, 10]) (txLane idle 0 .idle 0 0 0))
    (fun t => memRead t.mem 0x80000009 == 10 && (t.chan .tx 0).head == 10 && t.tx.hw[0] == 0 && t.tx.sw[0] == 10
      && t.tx.en == 1 && t.hist.head? == some (.spaceAvailable ownerP 0)) = true := by decide +kernel
/-- RP13: the copy crosses the end and a unit of 2 reschedules -/
theorem test_txprod_wraps : goes (exec (.txprod 0 3 [7, 8, 9])
      { txLane idle 0 .armed 14 4 4 with cfg := { cfg with refillPred := 1 } })
    (fun t => t.mem == [(0x8000000E, 7), (0x8000000F, 8)] && t.tx.sw[0] == 0 && (t.chan .tx 0).work) = true := by
  decide +kernel
/-- RP16, RP17 -/
theorem test_txcomp : goes (exec (.txcomp 0) (txLane idle 0 .armed 10 0 3)) (fun t =>
    answered t (.txcomp 0) .ok (some 3) && (t.chan .tx 0).tail == 3 && t.tx.sw[0] == 10) = true := by decide +kernel
theorem test_txcomp_beyond_head : goes (exec (.txcomp 0) (txLane idle 0 .armed 10 3 12)) (fun t =>
    answered t (.txcomp 0) .corruptPointer none && (t.chan .tx 0).run == .idle && t.tx.en == 0) = true := by decide +kernel
/-- RP19, and R262 on a transmit lane -/
theorem test_work_nothing : goes (exec (.work .rx 3) (rxLane idle 3 .armed 6 4)) (fun t =>
    t == { rxLane idle 3 .armed 6 4 with hist := [.result (.work .rx 3) .ok none] }) = true := by decide +kernel
theorem test_work_tx : goes (exec (.work .tx 0)
      ((txLane idle 0 .armed 4 0 4).setChan .tx 0 { slot := .owned ownerP callbackK, run := .armed, head := 4, tail := 0, work := true }))
    (fun t => (t.chan .tx 0) == { slot := .owned ownerP callbackK, run := .armed, head := 14, tail := 4, work := false }
      && t.tx.sw[0] == 14 && memRead t.mem 0x80000004 == 1) = true := by decide +kernel

/-! ### The dispatcher (95 section 8) -/

/-- DP8 -/
theorem test_dispatch_late_completion :
    goes (exec .dispatch { pendingAt (rxLane idle 0 .armed 2 0) .rx 0 with sched := [[], [], [], [.status .rx 0]] })
      (fun t => sourcePending t .rx 0 && (t.chan .rx 0).work) = true := by decide +kernel

/-! ### Witnesses: states and operands that meet the hypotheses of the obligations

`witness_<name>` for the statement `Obligations.<name>`, one conjunct or group for each clause, at values on
the boundary of its range. -/

/-- A receive lane with 8 bytes across the ring's end (X1). -/
def rx3 : State := rxLane idle 3 .armed 6 14

/-- A transmit lane of which 3 of 10 bytes are sent (X2). -/
def tx0 : State := txLane idle 0 .armed 10 0 3

/-- `rx3` with the lane's work flag set, `tx0` likewise. -/
def rx3Work : State := rx3.setChan .rx 3 { rx3.chan .rx 3 with work := true }
def tx0Work : State := tx0.setChan .tx 0 { tx0.chan .tx 0 with work := true }

/-- Configurations that fail ATTACH's checks: unaligned, past the top (lane 11), overlapping. -/
def withRings (c : Params) (f : Lane → Nat) : Params :=
  { c with rxBufPhys := tabulate fun n => BitVec.ofNat 32 (f n) }
def cfgUnaligned : Params := withRings cfg fun n => if n = 11 then 0x40000B01 else 0x40000000 + 0x100 * n.val
def cfgPastTop : Params := withRings cfg fun n => if n = 11 then 0xFFFFFFF4 else 0x40000000 + 0x100 * n.val
def cfgOverlap : Params := withRings cfg fun n => if n = 11 then 0x4000000C else 0x40000000 + 0x100 * n.val

theorem witness_DecodeEncodeRoundTrip : (Instr.ld32RxBase 11).registerExists cfg = true ∧
    (Instr.txprod 31 9 []).registerExists cfg = true ∧
    decode cfg.numLanes (.mmio .w32 0x01B8 0) = .ok (.ld32RxBase 11) := by decide

theorem witness_EachWordHasOneMeaning : decode 12 (.cmd 0x00000074 zeroOperands) = .ok (.trigger .rx 3) ∧
    decode 12 (.mmio .w32 0x11B8 9) = .ok (.st32RxBase 11 9) := by decide

theorem witness_IllegalCommandWordsRefused :
    let s : State := { idle with inbox := [.cmd 0x00000401 zeroOperands] }
    s.faulted = none ∧ s.refused = false ∧ s.cur = none ∧ controlMoves s = true ∧
      controlMoves { s with pace := .atomic } = true ∧ s.cfg.numLanes = 12 ∧
      decode 12 (.cmd 0x00000401 zeroOperands) = .error .illegalCommand := by decide +kernel

theorem witness_IllegalAccessWordsFault :
    let at' (w : AccessWidth) (a : BitVec 13) : State := { idle with inbox := [.mmio w a 0] }
    (at' .w64 0x0000).faulted = none ∧ (at' .w32 0x1003).refused = false ∧ (at' .w32 0x01BC).cur = none ∧
      controlMoves (at' .w32 0x01BC) = true ∧ cfg.hasLane 11 = true ∧ cfg.hasLane 12 = false ∧
      (0x1003#13).extractLsb' 0 12 = 3 ∧ (0x01BC#13).extractLsb' 0 12 = 0x1BC ∧
      0x1B8 = 0x58 + 0x20 * (11 : Lane).val := by decide +kernel

theorem witness_StepRunsDecodedInstruction :
    let s : State := { idle with inbox := [.cmd 0x74 zeroOperands, .mmio .w32 0 0] }
    let a : State := { s with pace := .atomic, sched := [[], [.txByte 0]] }
    let r : State := { a with inbox := [.mmio .w32 0 0] }
    (s.faulted = none ∧ s.refused = false ∧ s.cur = none ∧ s.pace = .command ∧
      decode s.cfg.numLanes (.cmd 0x74 zeroOperands) = .ok (.trigger .rx 3)) ∧
    (a.pace = .atomic ∧ controlMoves a = true ∧ isCommand (.trigger .rx 3) = true) ∧
    (r.faulted = none ∧ r.cur = none ∧ controlMoves r = true ∧
      decode r.cfg.numLanes (.mmio .w32 0 0) = .ok .ld32TxEn ∧ isCommand .ld32TxEn = false) := by decide +kernel

theorem witness_MarkedStatesTakeNoStep :
    ({ idle with faulted := some .overlap } : State).faulted = some .overlap ∧
    ({ idle with refused := true } : State).faulted = none ∧ ({ idle with refused := true } : State).refused = true := by
  decide +kernel

theorem witness_IdleStepMovesLaneAgentsOnly :
    let s : State := { rx3 with sched := [[.rxByte 3 1], [.status .rx 3]] }
    s.faulted = none ∧ s.refused = false ∧ s.inbox = [] ∧ s.cur = none ∧ controlMoves s = true := by decide +kernel

theorem witness_LaneAgentsWriteOnlyTheirState :
    sourcePending (pendingAt rx3 .rx 11) .rx 11 = true ∧ (∀ n b, LaneStep.txByte 0 ≠ .rxByte n b) :=
  ⟨by decide +kernel, fun _ _ h => by cases h⟩

/-- The last cell before the ring's end; then an inactive lane, a pointer at the capacity, a full ring. -/
theorem witness_ReceiveByteStep :
    let s := rxLane idle 3 .armed 15 4
    (Memory.wf s.mem ∧ laneActive s .rx 3 = true ∧ s.rx.hw[3].toNat < cap s.cfg .rx ∧
      (s.rx.hw[3].toNat + 1) % cap s.cfg .rx ≠ s.rx.sw[3].toNat ∧ s.rx.base[3].toNat + s.rx.hw[3].toNat < 2 ^ 32) ∧
    laneActive (rxLane idle 3 .paused 15 4) .rx 3 = false ∧
    cap idle.cfg .rx ≤ (rxLane idle 3 .armed 16 4).rx.hw[3].toNat ∧
    ((rxLane idle 3 .armed 15 0).rx.hw[3].toNat + 1) % cap idle.cfg .rx =
      (rxLane idle 3 .armed 15 0).rx.sw[3].toNat ∧
    2 ^ 32 ≤ ((rxLane idle 3 .armed 15 4).withBase .rx 3 0xFFFFFFF1).rx.base[3].toNat + 15 := by decide +kernel

theorem witness_TransmitByteStep :
    let s := txLane idle 0 .armed 0 15 15
    (laneActive s .tx 0 = true ∧ s.tx.hw[0].toNat < cap s.cfg .tx ∧ s.tx.sw[0].toNat < cap s.cfg .tx ∧
      s.tx.hw[0] ≠ s.tx.sw[0] ∧ s.tx.base[0].toNat + s.tx.hw[0].toNat < 2 ^ 32) ∧
    laneActive (txLane idle 0 .paused 0 15 15) .tx 0 = false ∧
    cap idle.cfg .tx ≤ (txLane idle 0 .armed 0 0 16).tx.hw[0].toNat ∧
    cap idle.cfg .tx ≤ (txLane idle 0 .armed 16 0 0).tx.sw[0].toNat ∧
    (txLane idle 0 .armed 7 7 7).tx.hw[0] = (txLane idle 0 .armed 7 7 7).tx.sw[0] ∧
    2 ^ 32 ≤ (s.withBase .tx 0 0xFFFFFFF1).tx.base[0].toNat + s.tx.hw[0].toNat := by decide +kernel

theorem witness_StatusSetStep : laneActive rx3 .rx 3 = true ∧ laneActive rx3 .rx 11 = false := by decide +kernel

theorem witness_InactiveLanesTakeNoStep : rx3.cfg.hwMayCorrupt = false ∧ laneActive rx3 .rx 0 = false := by
  decide +kernel

theorem witness_HardwareFaultStep :
    ((faulty rx3).cfg.hwMayCorrupt = true ∧ rx3.cfg.hasLane 3 = true ∧ rx3.cfg.hasLane 12 = false ∧ laneInReset (faulty rx3) .rx 3 = false) ∧ rx3.cfg.hwMayCorrupt = false ∧
    laneInReset ((faulty rx3).withRst .rx 8) .rx 3 = true ∧
    cap (faulty rx3).cfg .rx ≤ ((laneStep (faulty rx3) (.corrupt .rx 3 16)).rx.hw[3]).toNat := by decide +kernel

theorem witness_StatusBitsSurvive :
    (∃ t, exec (.pause .rx 3) (pendingAt rx3 .rx 3) = .next t) ∧ sourcePending (pendingAt rx3 .rx 3) .rx 3 = true := by
  refine ⟨?_, by decide +kernel⟩
  have h : goes (exec (.pause .rx 3) (pendingAt rx3 .rx 3)) (fun _ => true) = true := by decide +kernel
  revert h
  cases exec (.pause .rx 3) (pendingAt rx3 .rx 3) with
  | next t => exact fun _ => ⟨t, rfl⟩
  | fault r => intro h; cases h
  | refused r => intro h; cases h

theorem witness_EnableRegisterWrites :
    (0xFFF#32 &&& ~~~laneMask cfg = 0) ∧ (0x1000#32 &&& ~~~laneMask cfg ≠ 0) := by decide

theorem witness_ResetRegisterWrites :
    (0x800#32 &&& ~~~laneMask cfg = 0) ∧ (0x80000000#32 &&& ~~~laneMask cfg ≠ 0) := by decide

theorem witness_ConfigurationWrites :
    ((idle.tx.en ||| idle.rx.en) &&& laneMask cfg = 0 ∧ (0x33 : Word) = idle.cfg.sizeClass) ∧
    ((idle.tx.en ||| idle.rx.en) &&& laneMask cfg = 0 ∧ (0x34 : Word) ≠ idle.cfg.sizeClass) ∧
    (rx3.tx.en ||| rx3.rx.en) &&& laneMask cfg ≠ 0 := by decide +kernel

theorem witness_LaneRegisterWrites :
    cap idle.cfg .rx ≤ (16#32).toNat ∧ (15#32).toNat < cap idle.cfg .rx ∧ (rx3.bank .rx).en.getLsbD 3 = true ∧
    (idle.bank .rx).en.getLsbD 3 = false ∧ ((idle.withRst .rx 8).bank .rx).rst.getLsbD 3 = true ∧
    ((idle.withRst .rx 8).bank .rx).en.getLsbD 3 = false ∧ (idle.bank .rx).rst.getLsbD 3 = false ∧
    (tx0.bank .tx).en.getLsbD 0 = true ∧ (idle.bank .tx).en.getLsbD 0 = false ∧
    (0x80000002#32).toNat % bufAlign idle.cfg ≠ 0 ∧ (0xFFFFFFFC#32).toNat % bufAlign idle.cfg = 0 := by decide +kernel

theorem witness_CommonChecks :
    (isCommand (.rxdrain 3) = true ∧ Instr.rxdrain 3 ≠ .attach ∧ fresh.attached = false) ∧
    idle.attached = true ∧ idle.cfg.numLanes.val ≤ (12 : LaneField).val ∧
    idle.cfg.numLanes.val ≤ (31 : LaneField).val := by decide +kernel

/-- One state with an `Armed` receive lane 3, a `Paused` receive lane 4, and every other lane free. -/
theorem witness_ErrorCodesOfCommands :
    let s := rxLane rx3 4 .paused 0 0
    s.attached = true ∧ laneOf cfg 3 = some 3 ∧ laneOf cfg 11 = some 11 ∧ (s.chan .rx 3).slot.isOwned = true ∧
    (tx0.chan .tx 0).slot.isOwned = true ∧ (s.chan .rx 11).slot = .free ∧ (s.chan .tx 11).slot = .free ∧
    (s.chan .rx 3).run = .armed ∧ (s.chan .rx 4).run ≠ .armed ∧ cap s.cfg .rx ≤ (16#32).toNat := by decide +kernel

theorem witness_ErrorsTouchNothing : isCommand (.claimRx 3 ownerP callbackK) = true ∧
    ∃ t, exec (.claimRx 3 ownerP callbackK) rx3 = .next t ∧
      t.hist.getLast? = some (.result (.claimRx 3 ownerP callbackK) .busy none) ∧
      Code.busy ≠ .ok ∧ Code.busy ≠ .corruptPointer :=
  ⟨rfl, answeredOnly rx3 (.claimRx 3 ownerP callbackK) .busy none, rfl, rfl,
    by decide, by decide⟩

theorem witness_AttachEstablishesResetState : fresh.attached = false ∧ receiveRingsOk fresh.cfg = true ∧
    fresh.cfg.hwMayCorrupt = false := by decide +kernel

theorem witness_AttachFaults :
    idle.attached = true ∧ fresh.attached = false ∧
    (∀ m : Lane, m < 11 → aligned cfgUnaligned cfgUnaligned.rxBufPhys[m.val] = true ∧
      belowTop cfgUnaligned .rx cfgUnaligned.rxBufPhys[m.val] = true) ∧
    cfgUnaligned.hasLane 11 = true ∧ aligned cfgUnaligned cfgUnaligned.rxBufPhys[11] = false ∧
    (∀ m : Lane, m < 11 → aligned cfgPastTop cfgPastTop.rxBufPhys[m.val] = true ∧
      belowTop cfgPastTop .rx cfgPastTop.rxBufPhys[m.val] = true) ∧
    aligned cfgPastTop cfgPastTop.rxBufPhys[11] = true ∧ belowTop cfgPastTop .rx cfgPastTop.rxBufPhys[11] = false ∧
    (∀ m : Lane, aligned cfgOverlap cfgOverlap.rxBufPhys[m.val] = true ∧
      belowTop cfgOverlap .rx cfgOverlap.rxBufPhys[m.val] = true) ∧
    pairwiseDisjoint (windowRegion cfgOverlap :: rxRegions cfgOverlap) = false := by decide +kernel

theorem witness_DetachFreesEveryLane : rx3.attached = true ∧
    (∀ d n, rx3.cfg.hasLane n = true → aligned rx3.cfg (rx3.buf d n) = true) ∧
    (∀ d, hasReserved rx3.cfg (rx3.bank d).en = false ∧ hasReserved rx3.cfg (rx3.bank d).rst = false) ∧
    sourcePending (pendingAt rx3 .rx 3) .rx 3 = true ∧ rx3.cfg.hasLane 11 = true ∧ rx3.cfg.hwMayCorrupt = false := by
  refine ⟨by decide +kernel, ?_, ?_, by decide +kernel, by decide +kernel, by decide +kernel⟩
  · intro d; cases d <;> decide +kernel
  · intro d; cases d <;> decide +kernel

theorem witness_ClaimRxOwnsLane : idle.attached = true ∧ laneOf cfg 11 = some 11 ∧ (idle.chan .rx 11).slot = .free := by
  decide +kernel

/-- An unaligned buffer; one that meets the ring of transmit lane 0; one that ends at the top of memory. -/
theorem witness_ClaimTxOwnsLane :
    tx0.attached = true ∧ laneOf cfg 1 = some 1 ∧ (tx0.chan .tx 1).slot = .free ∧ laneEnabled tx0 .tx 1 = false ∧
    (0x80000001#32).toNat % bufAlign tx0.cfg ≠ 0 ∧ (0x8000000C#32).toNat % bufAlign tx0.cfg = 0 ∧
    ((tx0.chan .tx 0).slot.isOwned = true ∧
      disjoint (ringRegion tx0.cfg .tx 0x8000000C) (ringRegion tx0.cfg .tx tx0.txBuf[0]) = false) ∧
    (0xFFFFFFF0#32).toNat % bufAlign tx0.cfg = 0 ∧ (0xFFFFFFF0#32).toNat + cap tx0.cfg .tx ≤ 2 ^ 32 ∧
    disjoint (ringRegion tx0.cfg .tx 0xFFFFFFF0) (windowRegion tx0.cfg) = true ∧
    (∀ m : Lane, disjoint (ringRegion tx0.cfg .tx 0xFFFFFFF0)
      (ringRegion tx0.cfg .rx tx0.cfg.rxBufPhys[m.val]) = true) ∧
    ∀ m : Lane, (tx0.chan .tx m).slot.isOwned = true →
      disjoint (ringRegion tx0.cfg .tx 0xFFFFFFF0) (ringRegion tx0.cfg .tx tx0.txBuf[m.val]) = true := by decide +kernel

theorem witness_TriggerIdleReceive :
    let s := rxLane idle 3 .idle 9 4
    s.attached = true ∧ laneOf cfg 3 = some 3 ∧ (s.chan .rx 3).slot.isOwned = true ∧ (s.chan .rx 3).run = .idle ∧
      laneEnabled s .rx 3 = false := by decide +kernel

theorem witness_TriggerIdleTransmit :
    let s := txLane idle 0 .idle 15 0 7
    s.attached = true ∧ laneOf cfg 0 = some 0 ∧ (s.chan .tx 0).slot.isOwned = true ∧ (s.chan .tx 0).run = .idle ∧
      laneEnabled s .tx 0 = false ∧ (s.chan .tx 0).head < cap s.cfg .tx ∧ (s.chan .tx 0).tail < cap s.cfg .tx := by
  decide +kernel

theorem witness_TriggerPausedResumes :
    let s := rxLane idle 3 .paused 9 4
    s.attached = true ∧ laneOf cfg 3 = some 3 ∧ (s.chan .rx 3).slot.isOwned = true ∧ (s.chan .rx 3).run = .paused := by
  decide +kernel

theorem witness_StopResetsLane : rx3.attached = true ∧ laneOf cfg 3 = some 3 ∧ aligned rx3.cfg (rx3.buf .rx 3) = true ∧
    aligned tx0.cfg (tx0.buf .tx 0) = true ∧ rx3.cfg.hwMayCorrupt = false := by decide +kernel

theorem witness_PauseKeepsPointers : rx3.attached = true ∧ laneOf cfg 3 = some 3 ∧ (rx3.chan .rx 3).run = .armed := by
  decide +kernel

theorem witness_ReleaseFreesLane : tx0.attached = true ∧ laneOf cfg 0 = some 0 ∧ (tx0.chan .tx 0).slot.isOwned = true ∧
    aligned tx0.cfg (tx0.buf .tx 0) = true ∧ (rx3.chan .rx 3).slot.isOwned = true ∧
    aligned rx3.cfg (rx3.buf .rx 3) = true := by decide +kernel

theorem witness_UpdswPublishes : rx3.attached = true ∧ laneOf cfg 3 = some 3 ∧ (rx3.chan .rx 3).slot.isOwned = true ∧
    (15#32).toNat < cap rx3.cfg .rx := by decide +kernel

theorem witness_RdhwReturnsPointer :
    let s := rxLane idle 3 .armed 15 4
    s.attached = true ∧ laneOf cfg 3 = some 3 ∧ ((interleave s).bank .rx).hw[3] = 15 ∧ (15#32).toNat < cap s.cfg .rx := by
  decide +kernel

/-- A pointer at the capacity in either direction, and one just beyond `head`. -/
theorem witness_CorruptPointerStopsLane :
    let s := rxLane idle 3 .armed 16 4
    let u := txLane idle 0 .armed 10 3 11
    (s.attached = true ∧ laneOf cfg 3 = some 3 ∧ aligned s.cfg (s.buf .rx 3) = true ∧
      (s.chan .rx 3).slot = .owned ownerA callbackK ∧ ((interleave s).bank .rx).hw[3] = 16 ∧
      (s.chan .rx 3).run ≠ .idle ∧ cap s.cfg .rx ≤ (16#32).toNat) ∧
    (u.attached = true ∧ laneOf cfg 0 = some 0 ∧ aligned u.cfg (u.buf .tx 0) = true ∧
      (u.chan .tx 0).slot = .owned ownerP callbackK ∧ ((interleave u).bank .tx).hw[0] = 11 ∧
      (u.chan .tx 0).run ≠ .idle ∧
      pendingCount u .tx 0 < ringSub (ringMask u.cfg .tx) (11#32).toNat (u.chan .tx 0).tail) := by decide +kernel

theorem witness_RxdrainNothingToDo :
    let s := rxLane idle 3 .armed 15 15
    (idle.attached = true ∧ laneOf cfg 3 = some 3 ∧ (idle.chan .rx 3).run = .idle) ∧
    (s.attached = true ∧ (s.chan .rx 3).run ≠ .idle ∧ (s.chan .rx 3).tail < cap s.cfg .rx ∧
      (interleave s).rx.hw[3].toNat = (s.chan .rx 3).tail) := by decide +kernel

theorem witness_RxdrainDeliversAccepted :
    rx3.attached = true ∧ laneOf cfg 3 = some 3 ∧ (rx3.chan .rx 3).run ≠ .idle ∧
    (rx3.chan .rx 3).slot = .owned ownerA callbackK ∧ (rx3.chan .rx 3).tail < cap rx3.cfg .rx ∧
    (rx3.buf .rx 3).toNat + cap rx3.cfg .rx ≤ 2 ^ 32 ∧ (interleave rx3).rx.hw[3] = 6 ∧
    (6#32).toNat < cap rx3.cfg .rx ∧ (6#32).toNat ≠ (rx3.chan .rx 3).tail ∧ (rx3Work.chan .rx 3).work = true ∧
    rx3.sched = [] := by decide +kernel

/-- RP10's schedule: a byte arrives before the second reading of the pointer (the accepted count is 3 of 8), and
the same where the stream takes none. The state that commands built is `twoPending`, lane 11. -/
theorem witness_RxdrainDeliversAccepted_recheck :
    let s : State := { rx3 with sched := List.replicate (8 + 7) [] ++ [[.rxByte 3 1]] }
    let u : State := { rx3 with
      draws := { rx3.draws with accepted := [0] }, sched := List.replicate (8 + 5) [] ++ [[.rxByte 3 1]] }
    (nextAccepted s (ringSub (ringMask s.cfg .rx) 6 (s.chan .rx 3).tail) = 3 ∧
      ringSub (ringMask s.cfg .rx) 6 (s.chan .rx 3).tail = 8 ∧ (interleave s).rx.hw[3] = 6 ∧
      (laneSteps (drained s 3 6 3 false) [.rxByte 3 1]).rx.hw[3] ≠ 6) ∧
    nextAccepted u 8 = 0 ∧ (interleave u).rx.hw[3] = 6 ∧
    (laneSteps (drained u 3 6 0 false) [.rxByte 3 1]).rx.hw[3] ≠ 6 := by decide +kernel

/-- `k` is the count, the space (0 in a full ring) and the refill unit in turn; `Idle` and `Armed` lanes. -/
theorem witness_TxprodRefillsRing :
    let s := txLane idle 0 .idle 15 15 0
    (s.attached = true ∧ laneOf cfg 0 = some 0 ∧ (s.chan .tx 0).slot = .owned ownerP callbackK ∧
      (s.chan .tx 0).head < cap s.cfg .tx ∧ (s.chan .tx 0).tail < cap s.cfg .tx ∧
      (s.buf .tx 0).toNat + cap s.cfg .tx ≤ 2 ^ 32 ∧ (s.chan .tx 0).run = .idle ∧ laneEnabled s .tx 0 = false ∧
      Memory.wf s.mem ∧ refillCount s.cfg (s.chan .tx 0) 3 = 3) ∧
    (tx0.chan .tx 0).run ≠ .idle ∧ refillCount cfg ((txLane idle 0 .armed 15 0 0).chan .tx 0) 3 = 0 ∧
    refillCount { cfg with refillPred := 1 } (tx0.chan .tx 0) 3 = 2 := by decide +kernel

theorem witness_TxcompSynchronises :
    (idle.attached = true ∧ laneOf cfg 0 = some 0 ∧ (idle.chan .tx 0).run = .idle) ∧
    (tx0.attached = true ∧ (tx0.chan .tx 0).run ≠ .idle ∧ (tx0.chan .tx 0).head < cap tx0.cfg .tx ∧
      (interleave tx0).tx.hw[0] = 3 ∧ (3#32).toNat < cap tx0.cfg .tx ∧
      ringSub (ringMask tx0.cfg .tx) (3#32).toNat (tx0.chan .tx 0).tail ≤ pendingCount tx0 .tx 0) ∧
    (tx0Work.chan .tx 0).work = true ∧ tx0.sched = [] := by decide +kernel

/-- A byte goes out before the second reading of the pointer, with bytes left (three empty slots) and with none
(two, where only a hardware fault can move the pointer). -/
theorem witness_TxcompSynchronises_recheck :
    let s : State := { tx0 with sched := List.replicate 3 [] ++ [[.txByte 0]] }
    let u : State := { faulty (txLane idle 0 .armed 10 0 10) with sched := List.replicate 2 [] ++ [[.corrupt .tx 0 9]] }
    ((s.chan .tx 0).head ≠ (3#32).toNat ∧ (interleave s).tx.hw[0] = 3 ∧
      (laneSteps (completed s 0 3 false) [.txByte 0]).tx.hw[0] ≠ 3) ∧
    (u.chan .tx 0).head = (10#32).toNat ∧ (interleave u).tx.hw[0] = 10 ∧
    (laneSteps (completed u 0 10 false) [.corrupt .tx 0 9]).tx.hw[0] ≠ 10 := by decide +kernel

/-- X2: 3 of 10, then all 10. -/
theorem witness_TransmitRoundTrip :
    tx0.attached = true ∧ laneOf cfg 0 = some 0 ∧ tx0.sched = [] ∧ (tx0.chan .tx 0).run ≠ .idle ∧
    (tx0.chan .tx 0).head < cap tx0.cfg .tx ∧ (tx0.chan .tx 0).tail < cap tx0.cfg .tx ∧
    (3#32).toNat < cap tx0.cfg .tx ∧ (10#32).toNat < cap tx0.cfg .tx ∧
    ringSub (ringMask tx0.cfg .tx) (3#32).toNat (tx0.chan .tx 0).tail ≤
      ringSub (ringMask tx0.cfg .tx) (10#32).toNat (tx0.chan .tx 0).tail ∧
    ringSub (ringMask tx0.cfg .tx) (10#32).toNat (tx0.chan .tx 0).tail ≤ pendingCount tx0 .tx 0 ∧
    (10#32).toNat = (tx0.chan .tx 0).head := by decide +kernel

theorem witness_WorkRunsTheJob :
    (rx3.attached = true ∧ laneOf cfg 3 = some 3 ∧ (rx3.chan .rx 3).work = false) ∧
    (rx3Work.attached = true ∧ rx3Work.sched = [] ∧ (rx3Work.chan .rx 3).work = true ∧ (rx3Work.chan .rx 3).run ≠ .idle ∧
      (rx3Work.chan .rx 3).slot = .owned ownerA callbackK ∧ (rx3Work.chan .rx 3).tail < cap rx3Work.cfg .rx ∧
      (rx3Work.buf .rx 3).toNat + cap rx3Work.cfg .rx ≤ 2 ^ 32 ∧ rx3Work.rx.hw[3] = 6 ∧
      (6#32).toNat < cap rx3Work.cfg .rx ∧ (6#32).toNat ≠ (rx3Work.chan .rx 3).tail) ∧
    (tx0Work.attached = true ∧ laneOf cfg 0 = some 0 ∧ tx0Work.sched = [] ∧ (tx0Work.chan .tx 0).work = true ∧
      (tx0Work.chan .tx 0).run ≠ .idle ∧ (tx0Work.chan .tx 0).slot = .owned ownerP callbackK ∧
      (tx0Work.chan .tx 0).head < cap tx0Work.cfg .tx ∧ (tx0Work.buf .tx 0).toNat + cap tx0Work.cfg .tx ≤ 2 ^ 32 ∧
      tx0Work.tx.hw[0] = 3 ∧ (3#32).toNat < cap tx0Work.cfg .tx ∧
      ringSub (ringMask tx0Work.cfg .tx) (3#32).toNat (tx0Work.chan .tx 0).tail ≤ pendingCount tx0Work .tx 0) := by
  decide +kernel

/-- The outcome is a next state whose last event is a result that `p` holds of. -/
def ends (o : Host.Outcome State Fault Refusal) (p : Ret → Bool) : Bool :=
  goes o fun t =>
    match t.hist.getLast? with
    | some (.result _ c v) => p { code := c, value := v }
    | _ => false

/-- What WORK runs after it cleared the flag. -/
def begun (s : State) (d : Dir) (n : Lane) : State :=
  (interleave s).setChan d n { s.chan d n with work := false }

/-- Rings that fail: of a receive lane at an odd address; of a transmit lane at an odd address, and past the top. -/
def rxOdd : State :=
  let s := faulty { rxLane idle 11 .armed 16 4 with cfg := cfgUnaligned }
  s.setChan .rx 11 { s.chan .rx 11 with work := true }
def txOdd : State := (faulty (tx0Work.withHw .tx 0 16)).setTxBuf 0 0x80000001
def txHigh : State := tx0Work.setTxBuf 0 0xFFFFFFF8

/-- Each clause of the receive job and of the transmit job: it answers, it stops; TXCOMP returns `CorruptPointer`,
or not and the lane is free or owned; TXPROD answers or stops. -/
theorem witness_WorkIsItsJob :
    (rx3Work.attached = true ∧ laneOf cfg 3 = some 3 ∧ (rx3Work.chan .rx 3).work = true ∧
      ends (exec (.rxdrain 3) (begun rx3Work .rx 3)) (fun r => r.code == .ok) = true) ∧
    ((rxOdd.chan .rx 11).work = true ∧ laneOf rxOdd.cfg 11 = some 11 ∧
      faults (exec (.rxdrain 11) (begun rxOdd .rx 11)) .baseAlign = true) ∧
    (let c := (faulty tx0Work).withHw .tx 0 16;
      c.attached = true ∧ (c.chan .tx 0).work = true ∧
        ends (exec (.txcomp 0) (begun c .tx 0)) (fun r => r.code == .corruptPointer) = true) ∧
    (let u := tx0Work.setChan .tx 0 { tx0Work.chan .tx 0 with slot := .free };
      u.attached = true ∧ (u.chan .tx 0).slot = .free ∧ ends (exec (.txcomp 0) (begun u .tx 0)) (fun r => r.code == .ok) = true) ∧
    (tx0Work.chan .tx 0).slot.isOwned = true ∧
    ends (exec (.txcomp 0) (begun tx0Work .tx 0)) (fun r => r.code == .ok) = true ∧
    goes (exec (.txcomp 0) (begun tx0Work .tx 0)) (fun t =>
      goes (exec (.txprod 0 (nextStream t).1 (nextStream t).2) (dropStream (t.setHist t.hist.dropLast)))
        fun _ => true) = true ∧
    goes (exec (.txcomp 0) (begun txHigh .tx 0)) (fun t =>
      faults (exec (.txprod 0 (nextStream t).1 (nextStream t).2) (dropStream (t.setHist t.hist.dropLast)))
        .ringAddress) = true ∧
    faults (exec (.txcomp 0) (begun txOdd .tx 0)) .baseAlign = true := by decide +kernel

/-- WORK of a lane whose pointer is at the capacity, and of one whose pointer is just beyond `head`. -/
theorem witness_WorkIsItsJob_corrupt :
    let s := (faulty rx3Work).withHw .rx 3 16
    let u := tx0Work.withHw .tx 0 11
    s.attached = true ∧ ((s.chan .rx 3).run ≠ .idle ∧ aligned s.cfg (s.buf .rx 3) = true ∧
      (s.chan .rx 3).slot = .owned ownerA callbackK ∧ ((interleave (interleave s)).bank .rx).hw[3] = 16 ∧
      cap s.cfg .rx ≤ (16#32).toNat) ∧
    (u.attached = true ∧ (u.chan .tx 0).run ≠ .idle ∧ aligned u.cfg (u.buf .tx 0) = true ∧
      (u.chan .tx 0).slot = .owned ownerP callbackK ∧ ((interleave (interleave u)).bank .tx).hw[0] = 11 ∧
      pendingCount u .tx 0 < ringSub (ringMask u.cfg .tx) (11#32).toNat (u.chan .tx 0).tail) := by decide +kernel

theorem witness_DispatchSpurious : idle.attached = true ∧ idle.sched = [] ∧ (∀ d n, sourcePending idle d n = false) := by
  refine ⟨by decide +kernel, rfl, ?_⟩
  intro d; cases d <;> decide +kernel

/-- The lowest transmit and the highest receive lane pending, both `Armed`. -/
def twoPending : State := pendingAt (pendingAt (rxLane tx0 11 .armed 15 4) .rx 11) .tx 0

/-- Also a lane whose pointer is out of range, an `Idle` lane and a `Paused` one. -/
def mixture : State :=
  pendingAt (pendingAt (pendingAt (rxLane (rxLane (rxLane (faulty twoPending) 2 .armed 16 4) 3 .idle 9 4) 4 .paused 9 4)
    .rx 2) .rx 3) .rx 4

theorem witness_DispatchServicesEveryPendingLane :
    mixture.attached = true ∧ mixture.sched = [] ∧ (∃ d n, sourcePending mixture d n = true) ∧
    (∀ d, hasReserved mixture.cfg (mixture.bank d).en = false) ∧
    (∀ d n, sourcePending mixture d n = true → corruptCompletion mixture d n = true →
      aligned mixture.cfg (mixture.buf d n) = true) ∧
    sourcePending mixture .rx 2 = true ∧ corruptCompletion mixture .rx 2 = true ∧
    corruptCompletion mixture .rx 11 = false := by
  refine ⟨by decide +kernel, by decide +kernel, ⟨.tx, 0, by decide +kernel⟩, ?_, ?_, by decide +kernel,
    by decide +kernel, by decide +kernel⟩
  · intro d; cases d <;> decide +kernel
  · intro d; cases d <;> decide +kernel

/-- DP1, DP7 and more in one mixture: each lane's events, transmit lanes first. -/
theorem test_dispatch : goes (exec .dispatch mixture) (fun t => decide (t.hist =
    [.callback ownerP callbackK .tx 0 3, .anomaly .corruptPointer (some .rx) (some 2), .ioError ownerA .rx 2,
      .anomaly .disabledLaneCompletion (some .rx) (some 3), .anomaly .disabledLaneCompletion (some .rx) (some 4),
      .callback ownerA callbackK .rx 11 15, .result .dispatch .ok (some 1)])
    && (t.chan .rx 2).run == .idle && (t.chan .rx 3).tail == 9 && (t.chan .rx 4).tail == 4
    && t.rx.en == 0x800 && t.rx.isr == 0) = true := by decide +kernel

theorem witness_LateCompletionStaysLatched :
    let s : State := { pendingAt (rxLane idle 11 .armed 15 4) .rx 11 with
      sched := [[], [], [], [.status .rx 11], [.rxByte 11 7]] }
    s.attached = true ∧ s.cfg.hwMayCorrupt = false ∧ hasReserved s.cfg (nextReserved s) = false ∧
    hasReserved s.cfg (nextReserved (dropReserved s)) = false ∧ LaneStep.status .rx 11 ∈ [LaneStep.status .rx 11] ∧
    laneActive s .rx 11 = true ∧ (s.chan .rx 11).run = .armed ∧ (s.chan .rx 11).slot = .owned ownerA callbackK ∧
    (s.bank .rx).hw[11].toNat < cap s.cfg .rx ∧ (∀ e m, sourcePending s e m = true ↔ e = .rx ∧ m = 11) := by
  refine ⟨by decide +kernel, by decide +kernel, by decide +kernel, by decide +kernel, by decide, by decide +kernel,
    by decide +kernel, by decide +kernel, by decide +kernel, ?_⟩
  intro e; cases e <;> decide +kernel

/-- An `Idle` receive lane with its pointer in range (resynchronised) and a `Paused` one (not). -/
theorem witness_DisabledLaneCompletionIsAbsorbed :
    let s := pendingAt (rxLane idle 5 .idle 15 4) .rx 5
    let u := pendingAt (rxLane idle 5 .paused 9 4) .rx 5
    (s.attached = true ∧ s.sched = [] ∧ (s.chan .rx 5).run ≠ .armed ∧
      (∀ e m, sourcePending s e m = true ↔ e = .rx ∧ m = 5)) ∧
    (u.attached = true ∧ u.sched = [] ∧ (u.chan .rx 5).run ≠ .armed ∧
      (∀ e m, sourcePending u e m = true ↔ e = .rx ∧ m = 5)) := by
  refine ⟨⟨by decide +kernel, by decide +kernel, by decide +kernel, ?_⟩, by decide +kernel, by decide +kernel,
    by decide +kernel, ?_⟩ <;>
  (intro e; cases e <;> decide +kernel)

/-- The parts of the invariant of a concrete state. -/
theorem coreParts_twoPending : CoreParts twoPending := by
  refine ⟨by decide +kernel, ?_, ?_, ?_, ?_⟩
  · intro d; cases d <;> decide +kernel
  · intro d; cases d <;> decide +kernel
  · intro d; cases d <;> decide +kernel
  · intro d n
    constructor <;> revert n <;> cases d <;> decide +kernel

/-- A state with started lanes of both directions meets the command invariant. -/
theorem commandInv_twoPending : CommandInv twoPending := by
  have disc : ∀ d n, twoPending.cfg.hasLane n = true → LaneDisciplined twoPending d n := by
    intro d n h
    constructor <;> revert n <;> cases d <;> decide +kernel
  refine ⟨⟨coreParts_twoPending, rfl, ?_, by decide +kernel⟩, disc, by decide +kernel, ?_,
    fun _ => by decide +kernel, by decide +kernel⟩
  · intro d; cases d <;> decide +kernel
  · unfold TxRingsDisjoint; decide +kernel

theorem witness_ReceiveLosesNoByte : CommandInv twoPending ∧ twoPending.attached = true ∧
    laneOf twoPending.cfg 11 = some 11 ∧ twoPending.cfg.hwMayCorrupt = false ∧ (twoPending.chan .rx 11).run ≠ .idle :=
  ⟨commandInv_twoPending, by decide +kernel, by decide +kernel, by decide +kernel, by decide +kernel⟩

/-- Lane 11 of `twoPending` has bytes to drain, lane 0 room to fill. -/
theorem witness_RingCommands_commandInv : CommandInv twoPending ∧ twoPending.cfg.hwMayCorrupt = false ∧
    ((twoPending.chan .rx 11).slot = .owned ownerA callbackK ∧ (interleave twoPending).rx.hw[11] = 15 ∧
      (15#32).toNat ≠ (twoPending.chan .rx 11).tail ∧ (twoPending.buf .rx 11).toNat + cap twoPending.cfg .rx ≤ 2 ^ 32) ∧
    (twoPending.chan .tx 0).slot = .owned ownerP callbackK ∧ refillCount twoPending.cfg (twoPending.chan .tx 0) 3 = 3 ∧
    goes (exec (.txprod 0 3 [1, 2, 3]) twoPending) (fun _ => true) = true :=
  ⟨commandInv_twoPending, by decide +kernel, by decide +kernel, by decide +kernel, by decide +kernel, by decide +kernel⟩

/-- A step that answers, from a state of which `p` holds. -/
theorem next_of_goes {o : Host.Outcome State Fault Refusal} {p : State → Bool} (h : goes o p = true) :
    ∃ t, o = .next t ∧ p t = true := by
  cases o with
  | next t => exact ⟨t, rfl, h⟩
  | fault r => cases h
  | refused r => cases h

/-- `twoPending` with a DISPATCH on the interface and a step being an atomic one. -/
def offered : State := { twoPending with inbox := [.cmd 0xA zeroOperands], pace := .atomic }

theorem coreInv_offered : CoreInv offered := by
  obtain ⟨⟨⟨m, e, r, i, l⟩, c, o, f⟩, -⟩ := commandInv_twoPending
  refine ⟨⟨m, fun d => ?_, fun d => ?_, fun d => ?_, fun d n => ?_⟩, c, fun d => ?_, f⟩
  · have := e d; cases d <;> exact this
  · have := r d; cases d <;> exact this
  · have := i d; cases d <;> exact this
  · have q := l d n
    cases d <;> exact ⟨q.heldInReset, q.swInRange, q.hwInRange, q.baseAligned, q.headInRange, q.tailInRange⟩
  · have := o d; cases d <;> exact this

theorem witness_StepKeepsInvariant : CoreParts offered ∧ ∃ t, step offered = .next t := by
  obtain ⟨t, h, -⟩ := next_of_goes (p := fun _ => true) (o := step offered) (by decide +kernel)
  exact ⟨coreInv_offered.parts, t, h⟩

/-- After 5 atomic steps the DISPATCH is half done, after 13 it has ended. -/
theorem witness_RunsKeepInvariant : CoreInv offered ∧
    (∃ t, Host.Core.run Sys2Proof.core 5 offered = .next t ∧ t.cur ≠ none) ∧
    ∃ t, Host.Core.run Sys2Proof.core 13 offered = .next t ∧ t.cur = none := by
  obtain ⟨t, h, ht⟩ := next_of_goes (p := fun t => decide (t.cur ≠ none))
    (o := Host.Core.run Sys2Proof.core 5 offered) (by decide +kernel)
  obtain ⟨u, k, hu⟩ := next_of_goes (p := fun t => decide (t.cur = none))
    (o := Host.Core.run Sys2Proof.core 13 offered) (by decide +kernel)
  exact ⟨coreInv_offered, ⟨t, h, of_decide_eq_true ht⟩, u, k, of_decide_eq_true hu⟩

/-- A lane-agent step, the first micro-step of a DISPATCH, and the second: its program is not done. -/
theorem witness_AtomicStepIsOneMicroStep :
    (offered.faulted = none ∧ offered.refused = false ∧ offered.pace = .atomic) ∧
    goes (step { offered with sched := [[.status .rx 3, .txByte 0], []] })
      (fun t => decide (t.sched = [[.txByte 0], []])) = true ∧
    (controlMoves offered = true ∧ offered.cur = none ∧
      decode offered.cfg.numLanes (.cmd 0xA zeroOperands) = .ok .dispatch ∧ isCommand .dispatch = true) ∧
    ∃ t u, step offered = .next t ∧ t.cur = some (.dispatch, 1) ∧ pendingProgram t .dispatch ≠ .done () ∧
      controlMoves t = true ∧ step t = .next u := by
  refine ⟨by decide +kernel, by decide +kernel, by decide +kernel, ?_⟩
  obtain ⟨t, h, ht⟩ := next_of_goes (p := fun t => decide (t.cur = some (.dispatch, 1)) && (t.seen.length == 2)
      && controlMoves t && goes (step t) fun _ => true) (o := step offered) (by decide +kernel)
  simp only [Bool.and_eq_true, decide_eq_true_eq, beq_iff_eq] at ht
  obtain ⟨⟨⟨h1, h2⟩, h3⟩, h4⟩ := ht
  obtain ⟨u, hu, -⟩ := next_of_goes h4
  refine ⟨t, u, h, h1, ?_, h3, hu⟩
  match hs : t.seen, h2 with
  | [x, y], _ =>
    intro hc
    cases hx : x.flag <;>
      simp [pendingProgram, commandOf, hs, dispatchProgram, attachedProgram, commandProgram, attachedOnly,
        lookAttached, Op.resume, Op.bind, hx, faultWith, dispatchBody, params, ld32] at hc

theorem witness_MicroStepsReachExec : offered.faulted = none ∧ offered.refused = false ∧ offered.pace = .atomic ∧
    offered.cur = none ∧ decode offered.cfg.numLanes (.cmd 0xA zeroOperands) = .ok .dispatch := by decide +kernel

theorem witness_CommandsKeepDiscipline : CommandInv twoPending ∧ isCommand .dispatch = true ∧
    (∃ t, exec .dispatch twoPending = .next t) ∧ exec .attach twoPending = .fault .alreadyAttached := by
  refine ⟨commandInv_twoPending, rfl, ?_, ?_⟩
  · obtain ⟨t, h, -⟩ := next_of_goes (p := fun _ => true) (o := exec .dispatch twoPending) (by decide +kernel)
    exact ⟨t, h⟩
  · have : faults (exec .attach twoPending) .alreadyAttached = true := by decide +kernel
    revert this
    cases exec .attach twoPending with
    | next t => intro h; cases h
    | fault r => intro h; rw [of_decide_eq_true h]
    | refused r => intro h; cases h

theorem witness_AttachEstablishesDiscipline : CoreInv fresh ∧ ∃ t, exec .attach fresh = .next t := by
  refine ⟨⟨⟨by decide +kernel, ?_, ?_, ?_, ?_⟩, rfl, ?_, by decide +kernel⟩, ?_⟩
  · intro d; cases d <;> decide +kernel
  · intro d; cases d <;> decide +kernel
  · intro d; cases d <;> decide +kernel
  · intro d n
    constructor <;> revert n <;> cases d <;> decide +kernel
  · intro d; cases d <;> decide +kernel
  · obtain ⟨t, h, -⟩ := next_of_goes (p := fun _ => true) (o := exec .attach fresh) (by decide +kernel)
    exact ⟨t, h⟩

theorem witness_HistoryOnlyGrows : ∃ t, step offered = .next t := witness_StepKeepsInvariant.2

theorem witness_MemoryFrame : Memory.wf [(5, 1), (7, 2)] ∧
    ∃ t es, exec (.rxdrain 3) rx3 = .next t ∧ t.hist = rx3.hist ++ es ∧ (∀ n b, Event.lineRx n b ∉ es) ∧
      (∀ f count data, Instr.rxdrain 3 ≠ .txprod f count data) ∧ (∀ f, Instr.rxdrain 3 ≠ .work .tx f) := by
  refine ⟨by decide, ?_⟩
  obtain ⟨t, h, ht⟩ := next_of_goes (o := exec (.rxdrain 3) rx3)
    (p := fun t => decide (t.hist = [.deliver ownerA 3 [0, 0, 0], .bytesAvailable ownerA 3,
      .result (.rxdrain 3) .ok (some 3)])) (by decide +kernel)
  refine ⟨t, _, h, (of_decide_eq_true ht).trans rfl, ?_, ?_, ?_⟩
  · intro n b hm; simp at hm
  · intro f c d hh; cases hh
  · intro f hh; cases hh

/-! A fair execution: the host acknowledges the only pending completion directly; then nothing is left to do. -/

/-- The only pending lane is an unowned receive lane. -/
def stray : State := { pendingAt idle .rx 5 with pace := .atomic }

/-- The state after the acknowledgement. -/
def acked : State := stray.withIsr .rx 0

def fairRun : Execution where
  st k := if k = 0 then stray else acked
  turn k := .control (if k = 0 then some (.mmio .w32 0x103C 0x20) else none) stray.draws
  line _ _ := none

theorem fairRun_inactive (k : Nat) (d : Dir) (n : Lane) : laneActive (fairRun.st k) d n = false ∧
    ((fairRun.st k).chan d n).work = false := by
  have a : ∀ d n, laneActive stray d n = false ∧ (stray.chan d n).work = false := by
    intro d; cases d <;> decide +kernel
  have b : ∀ d n, laneActive acked d n = false ∧ (acked.chan d n).work = false := by
    intro d; cases d <;> decide +kernel
  cases k with
  | zero => exact a d n
  | succ k => exact b d n

theorem fairRun_valid : fairRun.valid := by
  intro k
  cases k with
  | zero =>
    refine ⟨rfl, ?_⟩
    obtain ⟨t, h, ht⟩ := next_of_goes (p := fun t => decide (t = acked)) (o := step (fairRun.before 0))
      (by decide +kernel)
    rw [of_decide_eq_true ht] at h
    exact h
  | succ k => exact ⟨rfl, rfl⟩

theorem fairRun_fair : fairRun.Fair := by
  refine ⟨fairRun_valid, ?_, ?_, ?_, ?_, ?_, ?_, ?_⟩
  · intro k n b h; cases h
  · intro n k h; have := (h k (Nat.le_refl k)).1; rw [(fairRun_inactive k _ _).1] at this; cases this
  · intro n k h; have := (h k (Nat.le_refl k)).1; rw [(fairRun_inactive k _ _).1] at this; cases this
  · intro n k h; have := (h k (Nat.le_refl k)).1; rw [(fairRun_inactive k _ _).1] at this; cases this
  · intro n k h; have := (h k (Nat.le_refl k)).2; cases this
  · intro k h
    have late : interruptLine acked = false := by decide +kernel
    have := (h (k + 1) (Nat.le_succ k)).2
    rw [show fairRun.st (k + 1) = acked from rfl, late] at this
    cases this
  · intro d n k h; have := (fairRun_inactive k d n).2.symm.trans (h k (Nat.le_refl k)).2; cases this

theorem witness_LatchedCompletionIsDispatched : fairRun.Fair ∧ sourcePending (fairRun.st 0) .rx 5 = true ∧
    (fairRun.st 0).cur = none ∧
    ∀ j, 0 ≤ j → (fairRun.st j).attached = true ∧ sourceEnabled (fairRun.st j) .rx 5 = true := by
  refine ⟨fairRun_fair, by decide +kernel, rfl, ?_⟩
  have a : acked.attached = true ∧ sourceEnabled acked .rx 5 = true := by decide +kernel
  intro j _
  cases j with
  | zero => exact ⟨by decide +kernel, by decide +kernel⟩
  | succ j => exact a

end Sys2Proof.Tests
end

section
/-! What a step is made of (20_memory R72, R74): lane-agent steps, effects of the control unit's micro-steps, and
the model's own bookkeeping. A relation that these three keep relates the states before and after any step, at
either pace. -/

namespace Sys2Proof.Machine

/-! ### Bookkeeping -/

/-- The command index, what the command has read, the packets, the schedule and the host's read value set. -/
def State.withBooks (s : State) (c : Option (Instr × Nat)) (q : List Datum) (i : List Packet)
    (l : List (List LaneStep)) (r : Option Word) : State :=
  { s with cur := c, seen := q, inbox := i, sched := l, readData := r }

/-- A relation between states that lane-agent steps, effects and bookkeeping keep. -/
structure StepClosed (R : State → State → Prop) : Prop where
  refl : ∀ s, R s s
  trans : ∀ {s t u}, R s t → R t u → R s u
  lanes : ∀ {s t}, LaneFrame s t → R s t
  effect : ∀ {s t}, Effect s.cfg s t → R s t
  books : ∀ s c q i l r, R s (s.withBooks c q i l r)

/-! ### Which instruction does what -/

/-- A command runs its program; a direct register access is one read or one write. -/
theorem exec_cases (i : Instr) :
    (∃ x, commandOf i = some x ∧ ∀ s, exec i s = runCommand i x s) ∨
    (commandOf i = none ∧
      ((∃ r, ∀ s, exec i s = directRead r s) ∨ ∃ r v, ∀ s, exec i s = directWrite r v s)) := by
  cases i
  case st32RxTimeout v => exact .inr ⟨rfl, .inr ⟨.rxTimeout, v, fun _ => rfl⟩⟩
  case st32TxIsr v => exact .inr ⟨rfl, .inr ⟨.isr .tx, v, fun _ => rfl⟩⟩
  case st32RxIsr v => exact .inr ⟨rfl, .inr ⟨.isr .rx, v, fun _ => rfl⟩⟩
  all_goals first
    | exact .inl ⟨_, rfl, fun _ => rfl⟩
    | exact .inr ⟨rfl, .inl ⟨_, fun _ => rfl⟩⟩
    | exact .inr ⟨rfl, .inr ⟨_, _, fun _ => rfl⟩⟩

theorem exec_command {i : Instr} {x : Op Unit} (h : commandOf i = some x) : ∀ s, exec i s = runCommand i x s := by
  obtain ⟨y, hy, e⟩ | ⟨hn, -⟩ := exec_cases i
  · rw [h] at hy; cases hy; exact e
  · rw [h] at hn; cases hn

theorem exec_direct {i : Instr} (h : commandOf i = none) :
    (∃ r, ∀ s, exec i s = directRead r s) ∨ ∃ r v, ∀ s, exec i s = directWrite r v s := by
  obtain ⟨y, hy, -⟩ | ⟨-, e⟩ := exec_cases i
  · rw [h] at hy; cases hy
  · exact e

theorem isCommand_eq_isSome (i : Instr) : isCommand i = (commandOf i).isSome := by cases i <;> rfl

theorem commandOf_of_isCommand {i : Instr} (h : isCommand i = true) : ∃ x, commandOf i = some x :=
  Option.isSome_iff_exists.mp (isCommand_eq_isSome i ▸ h)

theorem commandOf_eq_none {i : Instr} (h : isCommand i = false) : commandOf i = none :=
  Option.isNone_iff_eq_none.mp (by rw [← Option.not_isSome, ← isCommand_eq_isSome, h]; rfl)

/-! ### Outcomes that answer a next state -/

theorem Stop.outcome_ne_next (e : Stop) (t : State) : e.outcome ≠ .next t := by cases e <;> nofun

theorem outcomeOf_next {x : EStateM.Result Stop State Unit} {t : State} (h : outcomeOf x = .next t) :
    x = .ok () t := by
  cases x with
  | ok a u => cases h; rfl
  | error e u => exact absurd h (e.outcome_ne_next t)

theorem directWrite_next {r : Reg} {v : Word} {s t : State} (h : directWrite r v s = .next t) :
    regWrite r v (boundary s) = .ok t := by
  unfold directWrite at h
  split at h
  · cases h; assumption
  · exact absurd h (Stop.outcome_ne_next _ t)

theorem takePacket_next {p : Packet} {rest : List Packet} {s t : State}
    {k : Instr → State → Host.Outcome State Fault Refusal} (h : takePacket p rest s k = .next t) :
    ∃ i, decode s.cfg.numLanes p = .ok i ∧ k i { s with inbox := rest } = .next t := by
  unfold takePacket at h
  split at h
  · rename_i e _; cases e <;> cases h
  · exact ⟨_, ‹_›, h⟩

theorem step_next_unmarked {s t : State} (h : step s = .next t) :
    s.faulted = none ∧ s.refused = false ∧ paceStep s = .next t := by
  unfold step at h
  split at h
  · cases h
  · cases h
  · exact ⟨‹_›, ‹_›, h⟩

/-- What is left of a command takes the command's micro-steps only. -/
theorem pendingProgram_effects (s : State) (i : Instr) : (pendingProgram s i).effects s.cfg := by
  unfold pendingProgram
  split
  · exact each_resume (commandOf_effects ‹_›) _
  · exact each_done _

/-! ### A relation through a step -/

namespace StepClosed

variable {R : State → State → Prop} (hR : StepClosed R)

include hR

theorem boundary (s : State) : R s (boundary s) :=
  hR.trans (hR.lanes (interleave_frame s))
    (hR.books _ (advanceCur (interleave s)).cur _ _ _ _)

theorem noted (l : List Datum) (s : State) : R s (noted l s) := by
  obtain ⟨m, h⟩ := noted_eq l s
  rw [h]
  exact hR.books s s.cur m s.inbox s.sched s.readData

theorem remember (x : Datum) (s : State) : R s (remember x s) := hR.noted [x] s

/-- Through a piece of a command that runs to its end. -/
theorem run {α : Type} {x : Op α} {s : State} (h : x.effects s.cfg) : R s (final (x.run s)) := by
  have hx : x.each s.cfg fun a b => b.cfg = a.cfg ∧ (a.cfg = s.cfg → R a b) :=
    each_mono h fun a b e => ⟨e.kept.cfg, fun ha => hR.effect (ha ▸ e)⟩
  have := each_run hx (fun a => ⟨rfl, fun _ => hR.refl a⟩)
    (fun a b => ⟨b.1.trans a.1, fun e => hR.trans (a.2 e) (b.2 (a.1.trans e))⟩)
    (fun a => ⟨boundary_cfg a, fun _ => hR.boundary a⟩) (fun a => a.1) s rfl
  exact this.2 rfl

/-- Through one micro-step of a piece. -/
theorem micro {x : Op Unit} {s t : State} (h : x.effects s.cfg) (e : x.micro s = .next t) : R s t := by
  rcases each_micro h rfl e with ⟨l, rfl⟩ | ⟨l, y, u, hu, rfl⟩
  · exact hR.noted l s
  · have hc : (Machine.boundary (Machine.noted l s)).cfg = s.cfg := by rw [boundary_cfg, noted_cfg]
    exact hR.trans (hR.noted l s) (hR.trans (hR.boundary _) (hR.trans (hR.effect (hc ▸ hu)) (hR.remember y u)))

/-- Through a direct register access. -/
theorem direct {i : Instr} {s t : State} (hi : commandOf i = none) (h : exec i s = .next t) : R s t := by
  obtain ⟨r, e⟩ | ⟨r, v, e⟩ := exec_direct hi
  · rw [e] at h
    cases h
    exact hR.trans (hR.boundary s) (hR.trans (hR.effect (.read r _))
      (hR.books _ (afterRead r _).cur (afterRead r _).seen (afterRead r _).inbox (afterRead r _).sched _))
  · rw [e] at h
    exact hR.trans (hR.boundary s) (hR.effect (.write r v (directWrite_next h)))

/-- Through a whole instruction. -/
theorem exec {i : Instr} {s t : State} (h : exec i s = .next t) : R s t := by
  cases hi : commandOf i with
  | none => exact hR.direct hi h
  | some x =>
    rw [exec_command hi] at h
    have hrun := hR.run (s := beginCommand i s) (commandOf_effects hi)
    rw [outcomeOf_next h] at hrun
    exact hR.trans (hR.books s (some (i, 0)) [] s.inbox s.sched s.readData) hrun

theorem takePacket {p : Packet} {rest : List Packet} {s t : State}
    {k : Instr → State → Host.Outcome State Fault Refusal}
    (h : takePacket p rest s k = .next t) (hk : ∀ {i s t}, k i s = .next t → R s t) : R s t := by
  obtain ⟨i, -, e⟩ := takePacket_next h
  exact hR.trans (hR.books s s.cur s.seen rest s.sched s.readData) (hk e)

theorem startInstruction {i : Instr} {s t : State} (h : startInstruction i s = .next t) : R s t := by
  unfold Machine.startInstruction at h
  split at h
  · exact hR.trans (hR.books s (some (i, 0)) [] s.inbox s.sched s.readData)
      (hR.micro (commandOf_effects ‹_›) h)
  · exact hR.exec h

theorem idleStep {s t : State} (h : idleStep s = .next t) : R s t := by
  cases h
  exact hR.lanes (interleave_frame s)

theorem controlTurn {s t : State} (h : controlTurn s = .next t) : R s t := by
  unfold Machine.controlTurn at h
  split at h
  · exact hR.micro (pendingProgram_effects s _) h
  · exact hR.takePacket h hR.startInstruction
  · exact hR.idleStep h

theorem atomicStep {s t : State} (h : atomicStep s = .next t) : R s t := by
  unfold Machine.atomicStep at h
  split at h
  · cases h
    exact hR.trans (hR.books s s.cur s.seen s.inbox _ s.readData) (hR.lanes (laneStep_frame _ _))
  · exact hR.controlTurn h
  · exact hR.controlTurn h

theorem commandStep {s t : State} (h : commandStep s = .next t) : R s t := by
  unfold Machine.commandStep at h
  split at h
  · rename_i i _ _
    have hrun := hR.run (pendingProgram_effects s i)
    rwa [outcomeOf_next h] at hrun
  · exact hR.takePacket h hR.exec
  · exact hR.idleStep h

/-- Through any step. -/
theorem step {s t : State} (h : step s = .next t) : R s t := by
  obtain ⟨-, -, h⟩ := step_next_unmarked h
  unfold paceStep at h
  split at h
  · exact hR.atomicStep h
  · exact hR.commandStep h

end StepClosed
end Sys2Proof.Machine
end

section
/-! The invariant of every step (10_state R22 to R43), the history (R45) and the simple steps (R20, R47). -/

namespace Sys2Proof.Machine

/-! ### What every step keeps -/

/-- The history grows; the marks, the parameters and the pace stay (R45, R48). -/
structure Appends (s t : State) : Prop where
  hist : ∃ es, t.hist = s.hist ++ es
  cfg : t.cfg = s.cfg
  faulted : t.faulted = s.faulted
  refused : t.refused = s.refused
  pace : t.pace = s.pace

theorem Kept.appends {s t : State} (h : Kept s t) : Appends s t :=
  ⟨h.hist, h.cfg, h.faulted, h.refused, h.pace⟩

theorem Appends.trans {s t u : State} (h : Appends s t) (k : Appends t u) : Appends s u where
  hist := by
    obtain ⟨a, ha⟩ := h.hist
    obtain ⟨b, hb⟩ := k.hist
    exact ⟨a ++ b, by rw [hb, ha, List.append_assoc]⟩
  cfg := k.cfg.trans h.cfg
  faulted := k.faulted.trans h.faulted
  refused := k.refused.trans h.refused
  pace := k.pace.trans h.pace

theorem appends_stepClosed : StepClosed Appends where
  refl s := (Kept.refl s).appends
  trans := Appends.trans
  lanes h := h.kept.appends
  effect h := h.kept.appends
  books _ _ _ _ _ _ := ⟨⟨[], (List.append_nil _).symm⟩, rfl, rfl, rfl, rfl⟩

/-- Settles O58: each thing a step is made of appends to the history and keeps the rest. -/
theorem historyOnlyGrows : Obligations.HistoryOnlyGrows := by
  intro s t h
  obtain ⟨hist, cfg, faulted, refused, pace⟩ := appends_stepClosed.step h
  exact ⟨hist, cfg, faulted, refused, pace⟩

/-! ### `CoreParts` under updates -/

theorem LaneCore.congr {s t : State} {d : Dir} {n : Lane} (h : LaneCore s d n) (cfg : t.cfg = s.cfg)
    (rst : laneInReset t d n = laneInReset s d n)
    (hw : (t.bank d).hw[n.val] = (s.bank d).hw[n.val]) (sw : (t.bank d).sw[n.val] = (s.bank d).sw[n.val])
    (base : (t.bank d).base[n.val] = (s.bank d).base[n.val]) (chan : t.chan d n = s.chan d n) :
    LaneCore t d n where
  heldInReset := by rw [rst, hw, sw]; exact h.heldInReset
  swInRange := by rw [sw, cfg]; exact h.swInRange
  hwInRange := by rw [hw, cfg]; exact h.hwInRange
  baseAligned := by rw [base, cfg]; exact h.baseAligned
  headInRange := by rw [chan, cfg]; exact h.headInRange
  tailInRange := by rw [chan, cfg]; exact h.tailInRange

/-- `CoreParts` looks at the parameters, the registers, the channel table and memory only. -/
theorem CoreParts.congr {s t : State} (h : CoreParts s) (cfg : t.cfg = s.cfg) (mem : t.mem = s.mem)
    (bank : ∀ d, t.bank d = s.bank d) (chan : ∀ d n, t.chan d n = s.chan d n) : CoreParts t where
  memCanonical := mem ▸ h.memCanonical
  enLegal d := by rw [bank, cfg]; exact h.enLegal d
  rstLegal d := by rw [bank, cfg]; exact h.rstLegal d
  ierLegal d := by rw [bank, cfg]; exact h.ierLegal d
  lane d n := (h.lane d n).congr cfg (by rw [laneInReset, laneInReset, bank]) (by rw [bank]) (by rw [bank])
    (by rw [bank]) (chan d n)

theorem LaneFrame.chan {s t : State} (h : LaneFrame s t) (d : Dir) (n : Lane) : t.chan d n = s.chan d n := by
  cases d
  · simp [State.chan, h.txChan]
  · simp [State.chan, h.rxChan]

/-- Lane agents keep it (R160, R162, R164, R172). -/
theorem LaneFrame.coreParts {s t : State} (h : LaneFrame s t) (hs : CoreParts s) : CoreParts t where
  memCanonical := h.mem hs.memCanonical
  enLegal d := by rw [h.en, h.cfg]; exact hs.enLegal d
  rstLegal d := by rw [h.rst, h.cfg]; exact hs.rstLegal d
  ierLegal d := by rw [h.ier, h.cfg]; exact hs.ierLegal d
  lane d n :=
    { heldInReset := fun hr => by
        rw [h.inReset] at hr
        rw [h.hwInReset d n hr, h.sw]
        exact (hs.lane d n).heldInReset hr
      swInRange := by rw [h.sw, h.cfg]; exact (hs.lane d n).swInRange
      hwInRange := fun hc => by
        rw [h.cfg] at hc ⊢
        exact h.hwInRange hc d n ((hs.lane d n).hwInRange hc)
      baseAligned := by rw [h.base, h.cfg]; exact (hs.lane d n).baseAligned
      headInRange := by rw [h.chan, h.cfg]; exact (hs.lane d n).headInRange
      tailInRange := by rw [h.chan, h.cfg]; exact (hs.lane d n).tailInRange }

/-! ### A lane's registers after a write -/

/-- A reset write zeroes both pointers of the lanes it holds in reset (R130, R132). -/
theorem LaneCore.zeroed {s : State} {d : Dir} {n : Lane} (h : LaneCore s d n) (v : Word) :
    LaneCore (s.setBank d { (s.bank d).zeroPointers v with rst := v }) d n := by
  have hcap := cap_pos s.cfg d
  obtain ⟨held, sw, hw, base, head, tail⟩ := h
  refine ⟨fun hr => ?_, ?_, fun hc => ?_, by simpa using base, by simpa using head, by simpa using tail⟩
  · have hv : testLane v n = true := by simpa [laneInReset] using hr
    simp [zeroPointers_hw, zeroPointers_sw, hv]
  · simp only [setBank_bank, setBank_cfg, zeroPointers_sw]
    split
    · exact hcap
    · exact sw
  · simp only [setBank_bank, setBank_cfg, zeroPointers_hw] at hc ⊢
    split
    · exact hcap
    · exact hw hc

/-- A hardware-pointer write in range, to a lane that is not in reset (R142, R150). -/
theorem LaneCore.withHw {s : State} {d : Dir} {n m : Lane} {v : Word} (h : LaneCore s d m)
    (hv : v.toNat < cap s.cfg d) (hr : laneInReset s d n = false) : LaneCore (s.withHw d n v) d m := by
  by_cases e : m = n
  · subst e
    obtain ⟨-, sw, -, base, head, tail⟩ := h
    exact ⟨fun hr' => by simp [hr] at hr', by simpa using sw, fun _ => by simpa [State.withHw] using hv,
      by simpa using base, by simpa using head, by simpa using tail⟩
  · exact h.congr (by simp) (by simp) (by simp [State.withHw, lane_set_other _ _ e]) (by simp) (by simp)
      (by simp)

/-- A software-pointer write in range, to a lane that is not in reset (R144, R148). -/
theorem LaneCore.withSw {s : State} {d : Dir} {n m : Lane} {v : Word} (h : LaneCore s d m)
    (hv : v.toNat < cap s.cfg d) (hr : laneInReset s d n = false) : LaneCore (s.withSw d n v) d m := by
  by_cases e : m = n
  · subst e
    obtain ⟨-, -, hw, base, head, tail⟩ := h
    exact ⟨fun hr' => by simp [hr] at hr', by simpa [State.withSw] using hv, by simpa using hw,
      by simpa using base, by simpa using head, by simpa using tail⟩
  · exact h.congr (by simp) (by simp) (by simp) (by simp [State.withSw, lane_set_other _ _ e]) (by simp)
      (by simp)

/-- An aligned base (R146, R152). -/
theorem LaneCore.withBase {s : State} {d : Dir} {n m : Lane} {v : Word} (h : LaneCore s d m)
    (hv : aligned s.cfg v = true) : LaneCore (s.withBase d n v) d m := by
  have hr : laneInReset (s.withBase d n v) d m = laneInReset s d m := by simp [laneInReset]
  by_cases e : m = n
  · subst e
    obtain ⟨held, sw, hw, -, head, tail⟩ := h
    exact ⟨by rw [hr]; simpa using held, by simpa using sw, by simpa using hw,
      by simpa [State.withBase] using hv, by simpa using head, by simpa using tail⟩
  · exact h.congr (by simp) hr (by simp) (by simp) (by simp [State.withBase, lane_set_other _ _ e])
      (by simp)

/-- Replacing one direction's registers keeps it where the new ones are legal. -/
theorem CoreParts.setBank {s : State} (h : CoreParts s) (d : Dir) {b : Bank}
    (en : hasReserved s.cfg b.en = false) (rst : hasReserved s.cfg b.rst = false)
    (ier : hasReserved s.cfg b.ier = false)
    (lane : ∀ n : Lane, LaneCore s d n → LaneCore (s.setBank d b) d n) : CoreParts (s.setBank d b) := by
  have other : ∀ e, e ≠ d → (s.setBank d b).bank e = s.bank e := fun e he => setBank_bank_other s b he
  refine ⟨by simpa using h.memCanonical, fun e => ?_, fun e => ?_, fun e => ?_, fun e n => ?_⟩
  all_goals by_cases he : e = d
  · subst he; simpa using en
  · simpa [other e he] using h.enLegal e
  · subst he; simpa using rst
  · simpa [other e he] using h.rstLegal e
  · subst he; simpa using ier
  · simpa [other e he] using h.ierLegal e
  · subst he; exact lane n (h.lane e n)
  · exact (h.lane e n).congr (by simp) (by simp [laneInReset, other e he]) (by rw [other e he])
      (by rw [other e he]) (by rw [other e he]) (by simp)

/-- A write to a register, where it completes, keeps it (R120 to R152). -/
theorem CoreParts.regWrite {r : Reg} {v : Word} {s t : State} (h : CoreParts s)
    (e : regWrite r v s = .ok t) : CoreParts t := by
  have hen := h.enLegal
  have hrst := h.rstLegal
  have hier := h.ierLegal
  cases r with
  | en d =>
    simp only [Machine.regWrite] at e
    split at e <;> cases e
    exact h.setBank d (Bool.eq_false_of_not_eq_true ‹_›) (hrst d) (hier d) fun n hn =>
      hn.congr (by simp) (by simp [laneInReset]) (by simp) (by simp) (by simp) (by simp)
  | ier d =>
    simp only [Machine.regWrite] at e
    split at e <;> cases e
    exact h.setBank d (hen d) (hrst d) (Bool.eq_false_of_not_eq_true ‹_›) fun n hn =>
      hn.congr (by simp) (by simp [laneInReset]) (by simp) (by simp) (by simp) (by simp)
  | isr d =>
    cases e
    exact h.setBank d (hen d) (hrst d) (hier d) fun n hn =>
      hn.congr (by simp) (by simp [laneInReset]) (by simp) (by simp) (by simp) (by simp)
  | rst d =>
    simp only [Machine.regWrite] at e
    split at e <;> cases e
    refine CoreParts.congr (s := s.setBank d { (s.bank d).zeroPointers v with rst := v })
      (h.setBank d (hen d) (Bool.eq_false_of_not_eq_true ‹_›) (hier d) fun n hn => ?_)
      (by simp) (by simp) (fun e => ?_) (by simp)
    · exact hn.zeroed v
    · by_cases he : e = d
      · subst he; simp
      · rw [assertReset_bank_other s v he, setBank_bank_other s _ he]
  | bufSz =>
    simp only [Machine.regWrite] at e
    (repeat' split at e) <;> cases e
    exact h.congr rfl rfl (fun d => by cases d <;> rfl) fun d n => by cases d <;> rfl
  | rxTimeout =>
    cases e
    exact h.congr rfl rfl (fun d => by cases d <;> rfl) fun d n => by cases d <;> rfl
  | hw d n =>
    simp only [Machine.regWrite] at e
    split at e
    · cases e
    split at e <;> cases e
    split
    · exact h
    · exact h.setBank d (hen d) (hrst d) (hier d) fun m hm =>
        hm.withHw (Nat.lt_of_not_le ‹_›) (Bool.eq_false_of_not_eq_true ‹_›)
  | sw d n =>
    simp only [Machine.regWrite] at e
    split at e <;> cases e
    split
    · exact h
    · exact h.setBank d (hen d) (hrst d) (hier d) fun m hm =>
        hm.withSw (Nat.lt_of_not_le ‹_›) (Bool.eq_false_of_not_eq_true ‹_›)
  | base d n =>
    simp only [Machine.regWrite] at e
    split at e
    · cases e
    split at e <;> cases e
    exact h.setBank d (hen d) (hrst d) (hier d) fun m hm => hm.withBase ‹_›

/-- Memory may change to any canonical one. -/
theorem CoreParts.setMem {s : State} (h : CoreParts s) {m : Memory} (hm : Memory.wf m) :
    CoreParts (s.setMem m) where
  memCanonical := hm
  enLegal d := by simpa using h.enLegal d
  rstLegal d := by simpa using h.rstLegal d
  ierLegal d := by simpa using h.ierLegal d
  lane d n := (h.lane d n).congr rfl (by simp [laneInReset]) (by simp) (by simp) (by simp) (by simp)

/-- A channel-table entry may change as long as its indices stay in the ring. -/
theorem CoreParts.setChan {s : State} (h : CoreParts s) (d : Dir) (n : Lane) {c : Chan}
    (head : c.head < cap s.cfg d) (tail : c.tail < cap s.cfg d) : CoreParts (s.setChan d n c) where
  memCanonical := by simpa using h.memCanonical
  enLegal e := by simpa using h.enLegal e
  rstLegal e := by simpa using h.rstLegal e
  ierLegal e := by simpa using h.ierLegal e
  lane e m := by
    obtain ⟨held, sw, hw, base, hh, ht⟩ := h.lane e m
    refine ⟨by simpa using held, by simpa using sw, by simpa using hw, by simpa using base, ?_, ?_⟩
    all_goals
      simp only [setChan_chan, setChan_cfg]
      split
    · obtain ⟨rfl, rfl⟩ := ‹_ ∧ _›; exact head
    · exact hh
    · obtain ⟨rfl, rfl⟩ := ‹_ ∧ _›; exact tail
    · exact ht

/-- Every effect of a micro-step keeps it. -/
theorem Effect.coreParts {s t : State} (e : Effect s.cfg s t) (h : CoreParts s) : CoreParts t := by
  cases e with
  | read r => cases r <;> exact h.congr rfl rfl (fun d => by cases d <;> rfl) fun d n => by cases d <;> rfl
  | write r v e => exact h.regWrite e
  | entry d n f hf =>
    obtain ⟨head, tail⟩ := hf (s.chan d n) (h.lane d n).headInRange (h.lane d n).tailInRange
    exact h.setChan d n head tail
  | byte a b ha => exact h.setMem (memWf_memWrite h.memCanonical ha b)
  | accepted | stream | event | buffer | attached | result =>
    exact h.congr rfl rfl (fun d => by cases d <;> rfl) fun d n => by cases d <;> rfl

theorem coreParts_stepClosed : StepClosed fun s t => CoreParts s → CoreParts t where
  refl _ h := h
  trans h k hs := k (h hs)
  lanes := LaneFrame.coreParts
  effect := Effect.coreParts
  books _ _ _ _ _ _ h := h.congr rfl rfl (fun d => by cases d <;> rfl) fun d n => by cases d <;> rfl

/-- Settles O54: lane agents, each effect of a micro-step and the bookkeeping keep the invariant. -/
theorem stepKeepsInvariant : Obligations.StepKeepsInvariant :=
  fun _ _ hs h => coreParts_stepClosed.step h hs

/-! ### Power-on -/

theorem reset_bank (d : Dir) : State.reset.bank d = Bank.reset := by cases d <;> rfl

theorem reset_chan (d : Dir) (n : Lane) : State.reset.chan d n = Chan.reset := by
  cases d
  · exact perLane_get _ n
  · exact perLane_get _ n

theorem aligned_zero (c : Params) : aligned c 0 = true := by simp [aligned]

/-- With every register 0 and the channel table at its initial values (log 1). -/
theorem coreParts_reset : CoreParts State.reset where
  memCanonical := rfl
  enLegal d := by rw [reset_bank]; exact hasReserved_zero _
  rstLegal d := by rw [reset_bank]; exact hasReserved_zero _
  ierLegal d := by rw [reset_bank]; exact hasReserved_zero _
  lane d n := by
    have hcap := cap_pos State.reset.cfg d
    have hhw : Bank.reset.hw[n.val] = 0 := perLane_get _ n
    have hsw : Bank.reset.sw[n.val] = 0 := perLane_get _ n
    have hbase : Bank.reset.base[n.val] = 0 := perLane_get _ n
    refine ⟨fun _ => ?_, ?_, fun _ => ?_, ?_, ?_, ?_⟩
    · rw [reset_bank]; exact ⟨hhw, hsw⟩
    · rw [reset_bank, hsw]; exact hcap
    · rw [reset_bank, hhw]; exact hcap
    · rw [reset_bank, hbase]; exact aligned_zero _
    · rw [reset_chan]; exact hcap
    · rw [reset_chan]; exact hcap

/-- Settles O53: at power-on no lane is started and no buffer is set. -/
theorem resetSatisfiesInvariant : Obligations.ResetSatisfiesInvariant := by
  have idle : ∀ d n, (State.reset.chan d n).run ≠ .idle → (State.reset.chan d n).slot.isOwned = true := by
    intro d n h
    rw [reset_chan] at h
    exact absurd rfl h
  exact ⟨⟨coreParts_reset, rfl, idle, fun n _ => perLane_get _ n⟩, rfl, rfl, rfl, rfl, rfl, rfl⟩

/-! ### Simple steps -/

theorem controlPart_interleave (s : State) : controlPart (interleave s) = controlPart s :=
  controlPart_boundary s

theorem interleave_sched (s : State) : (interleave s).sched = s.sched.tail := boundary_sched s

/-- The control unit's step, at either pace, with no command running and no packet waiting. -/
theorem step_idle {s : State} (hf : s.faulted = none) (hr : s.refused = false) (hi : s.inbox = [])
    (hc : s.cur = none) (hm : controlMoves s = true) : step s = .next (interleave s) := by
  cases hp : s.pace with
  | atomic => rw [step_control hf hr hp hm, controlTurn, hc, hi]; rfl
  | command => rw [step_command hf hr hp, commandStep, hc, hi]; rfl

/-- Settles O10: the step is one slot of lane-agent steps, whose frame says what it leaves. -/
theorem idleStepMovesLaneAgentsOnly : Obligations.IdleStepMovesLaneAgentsOnly := by
  intro s hf hr hi hc hm
  have frame := interleave_frame s
  exact ⟨interleave s, step_idle hf hr hi hc hm, rfl, controlPart_interleave s, frame.draws,
    frame.cur.trans hc, frame.seen, interleave_sched s, frame.hist⟩

theorem takePacket_decoded {p : Packet} {rest : List Packet} {s : State} {i : Instr}
    (hd : decode s.cfg.numLanes p = .ok i) (k : Instr → State → Host.Outcome State Fault Refusal) :
    takePacket p rest s k = k i { s with inbox := rest } := by simp [takePacket, hd]

theorem controlTurn_packet {s : State} {p : Packet} {rest : List Packet} (hc : s.cur = none)
    (hi : s.inbox = p :: rest) : controlTurn s = takePacket p rest s startInstruction := by
  unfold controlTurn
  split <;> simp_all

theorem controlTurn_running {s : State} {i : Instr} {k : Nat} (hc : s.cur = some (i, k)) :
    controlTurn s = (pendingProgram s i).micro s := by
  unfold controlTurn
  split <;> simp_all

theorem commandStep_packet {s : State} {p : Packet} {rest : List Packet} (hc : s.cur = none)
    (hi : s.inbox = p :: rest) : commandStep s = takePacket p rest s exec := by
  unfold commandStep
  split <;> simp_all

theorem startInstruction_command {i : Instr} {x : Op Unit} (h : commandOf i = some x) (s : State) :
    startInstruction i s = x.micro (beginCommand i s) := by simp [startInstruction, h]

theorem startInstruction_direct {i : Instr} (h : commandOf i = none) (s : State) :
    startInstruction i s = exec i s := by simp [startInstruction, h]

/-- Settles O6: a whole instruction at command pace; at atomic pace a direct access, or a command's first
micro-step. -/
theorem stepRunsDecodedInstruction : Obligations.StepRunsDecodedInstruction := by
  intro s p rest i hf hr hc hi hd
  have whole : s.pace = .command → step s = exec i { s with inbox := rest } := fun hp => by
    rw [step_command hf hr hp, commandStep_packet hc hi, takePacket_decoded hd]
  have first : s.pace = .atomic → controlMoves s = true →
      step s = startInstruction i { s with inbox := rest } := fun hp hm => by
    rw [step_control hf hr hp hm, controlTurn_packet hc hi, takePacket_decoded hd]
  constructor
  · rintro (hp | ⟨hm, hdirect⟩)
    · exact whole hp
    · cases hp : s.pace with
      | command => rw [← hp]; exact whole hp
      | atomic => rw [← hp, first hp hm, startInstruction_direct (commandOf_eq_none hdirect)]
  · intro hp hm hcmd
    obtain ⟨x, hx⟩ := commandOf_of_isCommand hcmd
    exact ⟨x, hx, (first hp hm).trans (startInstruction_command hx _)⟩

end Sys2Proof.Machine
end

section
/-! The commands' programs as the machine may interrupt them (10_state R47, 20_memory R74): what their accesses do
does not depend on which command runs or on what it has read, what they look at no lane agent writes, and the
`Result` comes with the last micro-step. -/

namespace Sys2Proof.Machine

/-! ### Accesses and looks -/

/-- The running command and what it has read, set. -/
def State.withRun (s : State) (c : Option (Instr × Nat)) (q : List Datum) : State :=
  { s with cur := c, seen := q }

/-- What is looked at is the control part (41_engine R160). -/
def ControlOnly (f : State → Datum) : Prop := ∀ s t, controlPart t = controlPart s → f t = f s

/-- An access neither looks at nor changes which command runs and what it has read. -/
def Aloof (f : State → Except Stop (Datum × State)) : Prop :=
  ∀ s c q, f (s.withRun c q) = (f s).map fun p => (p.1, p.2.withRun c q)

theorem Aloof.withRun_self {f : State → Except Stop (Datum × State)} (h : Aloof f) {s t : State} {y : Datum}
    (e : f s = .ok (y, t)) : t = t.withRun s.cur s.seen := by
  have := h s s.cur s.seen
  rw [show s.withRun s.cur s.seen = s from rfl, e] at this
  simp only [Except.map, Except.ok.injEq, Prod.mk.injEq, true_and] at this
  exact this

theorem Aloof.cur {f : State → Except Stop (Datum × State)} (h : Aloof f) {s t : State} {y : Datum}
    (e : f s = .ok (y, t)) : t.cur = s.cur := by rw [h.withRun_self e]; rfl

theorem Aloof.seen {f : State → Except Stop (Datum × State)} (h : Aloof f) {s t : State} {y : Datum}
    (e : f s = .ok (y, t)) : t.seen = s.seen := by rw [h.withRun_self e]; rfl

theorem aloof_ok {g : State → Datum} {u : State → State} (hg : ∀ s c q, g (s.withRun c q) = g s)
    (hu : ∀ s c q, u (s.withRun c q) = (u s).withRun c q) : Aloof fun s => .ok (g s, u s) := by
  intro s c q
  simp only [hg, hu]
  rfl

theorem regValue_withRun (r : Reg) (s : State) (c : Option (Instr × Nat)) (q : List Datum) :
    regValue r (s.withRun c q) = regValue r s := by
  cases r <;> rfl

theorem afterRead_withRun (r : Reg) (s : State) (c : Option (Instr × Nat)) (q : List Datum) :
    afterRead r (s.withRun c q) = (afterRead r s).withRun c q := by cases r <;> rfl

theorem setChan_withRun (s : State) (d : Dir) (n : Lane) (e : Chan) (c : Option (Instr × Nat))
    (q : List Datum) : (s.withRun c q).setChan d n e = (s.setChan d n e).withRun c q := by cases d <;> rfl

theorem regWrite_withRun (r : Reg) (v : Word) (s : State) (c : Option (Instr × Nat)) (q : List Datum) :
    regWrite r v (s.withRun c q) = (regWrite r v s).map fun t => t.withRun c q := by
  have hok : ∀ t : State, (Except.ok t : Except Stop State).map (fun t => t.withRun c q) = .ok (t.withRun c q) :=
    fun _ => rfl
  have herr : ∀ e, (Except.error e : Except Stop State).map (fun t => t.withRun c q) = .error e := fun _ => rfl
  have hif : ∀ (b : Bool) (t u : State),
      (if b = true then t else u).withRun c q = if b = true then t.withRun c q else u.withRun c q :=
    fun b _ _ => by cases b <;> rfl
  cases r
  all_goals simp only [regWrite, apply_ite (Except.map _), hok, herr, hif]
  case bufSz | rxTimeout => rfl
  case en d | rst d | ier d | isr d => cases d <;> rfl
  case hw d _ | sw d _ | base d _ => cases d <;> rfl

/-! ### Pieces with such accesses and looks -/

/-- Every access of a piece is aloof, and it looks at the control part only. -/
def Op.tame {α : Type} : Op α → Prop
  | .done _ => True
  | .stop _ => True
  | .config k => ∀ c, (k c).tame
  | .look f k => ControlOnly f ∧ ∀ x, (k x).tame
  | .access f k => Aloof f ∧ ∀ x, (k x).tame

variable {α β : Type}

theorem tame_done (a : α) : (Op.done a).tame := trivial

theorem Op.tame.bind {x : Op α} {f : α → Op β} (hx : x.tame) (hf : ∀ a, (f a).tame) :
    (x.bind f).tame := by
  induction x with
  | done a => exact hf a
  | stop r => trivial
  | config k ih => exact fun c => ih c (hx c)
  | look g k ih => exact ⟨hx.1, fun y => ih y (hx.2 y)⟩
  | access g k ih => exact ⟨hx.1, fun y => ih y (hx.2 y)⟩

theorem tame_ite {p : Prop} [Decidable p] {x y : Op α} (hx : x.tame) (hy : y.tame) :
    (if p then x else y).tame := by split <;> assumption

theorem tame_opWhen (b : Bool) {x : Op Unit} (hx : x.tame) : (opWhen b x).tame := by
  cases b
  · trivial
  · exact hx

theorem tame_faultWith (r : Fault) : (faultWith r : Op α).tame := trivial
theorem tame_faultIf (b : Bool) (r : Fault) : (faultIf b r).tame := by cases b <;> trivial

theorem tame_forEach {ι : Type} (l : List ι) {f : ι → Op Unit} (hf : ∀ a, (f a).tame) :
    (forEach l f).tame := by
  induction l with
  | nil => trivial
  | cons a l ih => exact (hf a).bind fun _ => ih

/-! ### The model's own looks and accesses -/

theorem tame_params : params.tame := fun _ => trivial

theorem tame_lookAttached : lookAttached.tame :=
  ⟨fun s t h => by simp only [control_attached h], fun _ => trivial⟩

theorem tame_lookChan (d : Dir) (n : Lane) : (lookChan d n).tame :=
  ⟨fun s t h => by simp only [control_chan h], fun _ => trivial⟩

theorem tame_lookBuf (d : Dir) (n : Lane) : (lookBuf d n).tame :=
  ⟨fun s t h => by simp only [control_buf h], fun _ => trivial⟩

theorem tame_lookFits (a : Word) : (lookFits a).tame := by
  refine ⟨fun s t h => ?_, fun _ => trivial⟩
  have owned : ownedTxRegions t = ownedTxRegions s := by
    simp only [ownedTxRegions, control_cfg h, control_chan h, control_txBuf h]
  simp only [txBufferFits, control_cfg h, owned]

theorem tame_update {u : State → State} (h : ∀ s c q, u (s.withRun c q) = (u s).withRun c q) :
    (update u).tame := ⟨aloof_ok (fun _ _ _ => rfl) h, fun _ => trivial⟩

theorem tame_emit (e : Event) : (emit e).tame := tame_update fun _ _ _ => rfl

theorem tame_updateChan (d : Dir) (n : Lane) (f : Chan → Chan) : (updateChan d n f).tame :=
  tame_update fun s c q => setChan_withRun s d n _ c q

theorem tame_setRun (d : Dir) (n : Lane) (r : RunState) : (setRun d n r).tame := tame_updateChan _ _ _
theorem tame_setWork (d : Dir) (n : Lane) : (setWork d n).tame := tame_updateChan _ _ _
theorem tame_clearEntry (d : Dir) (n : Lane) : (clearEntry d n).tame := tame_updateChan _ _ _
theorem tame_clearTxBuf (n : Lane) : (clearTxBuf n).tame := tame_update fun _ _ _ => rfl

theorem tame_drawAccepted (k : Nat) : (drawAccepted k).tame :=
  ⟨aloof_ok (fun _ _ _ => rfl) fun _ _ _ => rfl, fun _ => trivial⟩

theorem tame_drawStream : drawStream.tame :=
  ⟨aloof_ok (fun _ _ _ => rfl) fun _ _ _ => rfl, fun _ => trivial⟩

theorem tame_ld32 (r : Reg) : (ld32 r).tame :=
  ⟨aloof_ok (fun s c q => by rw [regValue_withRun]) (afterRead_withRun r), fun _ => trivial⟩

theorem tame_st32 (r : Reg) (v : Word) : (st32 r v).tame := by
  refine ⟨fun s c q => ?_, fun _ => trivial⟩
  simp only [regWrite_withRun]
  cases regWrite r v s <;> rfl

theorem tame_readRingByte (d : Dir) (n : Lane) (i : Nat) : (readRingByte d n i).tame := by
  refine ⟨fun s c q => ?_, fun _ => trivial⟩
  simp only [apply_ite (Except.map _)]
  rfl

theorem tame_writeRingByte (d : Dir) (n : Lane) (i : Nat) (b : Byte) :
    (writeRingByte d n i b).tame := by
  refine ⟨fun s c q => ?_, fun _ => trivial⟩
  simp only [apply_ite (Except.map _)]
  rfl

theorem tame_readRing (d : Dir) (n : Lane) (mask start k : Nat) :
    ∀ j, (readRing d n mask start j k).tame := by
  induction k with
  | zero => exact fun j => tame_done []
  | succ k ih => exact fun j => (tame_readRingByte _ _ _).bind fun _ => (ih _).bind fun _ => tame_done _

theorem tame_writeRing (d : Dir) (n : Lane) (mask : Nat) (data : List Byte) (start k : Nat) :
    ∀ j, (writeRing d n mask data start j k).tame := by
  induction k with
  | zero => exact fun j => tame_done ()
  | succ k ih => exact fun j => (tame_writeRingByte _ _ _ _).bind fun _ => ih _

/-! ### The shared pieces -/

theorem tame_setEn (d : Dir) (n : Lane) : (setEn d n).tame :=
  tame_params.bind fun _ => (tame_ld32 _).bind fun _ => tame_st32 _ _

theorem tame_clrEn (d : Dir) (n : Lane) : (clrEn d n).tame :=
  tame_params.bind fun _ => (tame_ld32 _).bind fun _ => tame_st32 _ _

theorem tame_pulse (d : Dir) (n : Lane) : (pulse d n).tame := (tame_st32 _ _).bind fun _ => tame_st32 _ _

theorem tame_zeroPointerRegs (n : Lane) (d : Dir) : (zeroPointerRegs n d).tame := by
  cases d <;> exact (tame_st32 _ _).bind fun _ => tame_st32 _ _

theorem tame_stopSequence (d : Dir) (n : Lane) : (stopSequence d n).tame :=
  (tame_clrEn d n).bind fun _ => (tame_pulse d n).bind fun _ => (tame_zeroPointerRegs n d).bind fun _ =>
    (tame_lookBuf d n).bind fun _ => (tame_st32 _ _).bind fun _ => (tame_updateChan _ _ _).bind fun _ =>
      tame_updateChan _ _ _

theorem tame_emitOwned (d : Dir) (n : Lane) (e : Owner → Event) : (emitOwned d n e).tame :=
  (tame_lookChan d n).bind fun entry => by
    cases entry.slot
    · exact tame_done ()
    · exact tame_emit _

theorem tame_corruptPath (d : Dir) (n : Lane) : (corruptPath d n).tame :=
  (tame_emit _).bind fun _ => (tame_stopSequence d n).bind fun _ => (tame_emitOwned d n _).bind fun _ =>
    tame_done _

theorem tame_recheck (d : Dir) (n : Lane) (v : Word) : (recheck d n v).tame :=
  (tame_ld32 _).bind fun _ => tame_opWhen _ (tame_setWork d n)

theorem tame_triggerIdleTx (n : Lane) : (triggerIdleTx n).tame :=
  (tame_lookChan .tx n).bind fun _ => (tame_pulse .tx n).bind fun _ => (tame_st32 _ _).bind fun _ =>
    (tame_st32 _ _).bind fun _ => (tame_setEn .tx n).bind fun _ => tame_setRun _ _ _

theorem tame_triggerIdleRx (n : Lane) : (triggerIdleRx n).tame :=
  (tame_pulse .rx n).bind fun _ => (tame_st32 _ _).bind fun _ => (tame_st32 _ _).bind fun _ =>
    (tame_updateChan _ _ _).bind fun _ => (tame_setEn .rx n).bind fun _ => tame_setRun _ _ _

theorem tame_dropTxBuffer (n : Lane) : (dropTxBuffer n).tame :=
  (tame_st32 _ _).bind fun _ => tame_clearTxBuf n

/-! ### The commands' bodies -/

theorem tame_attachChecks (c : Params) : (attachChecks c).tame :=
  (tame_forEach _ fun _ => (tame_faultIf _ _).bind fun _ => tame_faultIf _ _).bind fun _ => tame_faultIf _ _

theorem tame_attachConfigure (c : Params) : (attachConfigure c).tame := by
  unfold attachConfigure
  iterate 9 refine (tame_st32 _ _).bind fun _ => ?_
  exact tame_st32 _ _

theorem tame_attachInterrupts (c : Params) : (attachInterrupts c).tame := by
  unfold attachInterrupts
  iterate 3 refine (tame_st32 _ _).bind fun _ => ?_
  exact tame_st32 _ _

theorem tame_attachTables (c : Params) : (attachTables c).tame :=
  (tame_forEach _ (tame_clearEntry .tx)).bind fun _ => (tame_forEach _ (tame_clearEntry .rx)).bind fun _ =>
    (tame_forEach _ tame_clearTxBuf).bind fun _ => tame_update fun _ _ _ => rfl

theorem tame_attachBody : attachBody.tame :=
  tame_params.bind fun c => tame_lookAttached.bind fun _ => (tame_faultIf _ _).bind fun _ =>
    (tame_attachChecks c).bind fun _ => (tame_attachConfigure c).bind fun _ =>
      (tame_forEach _ fun _ => (tame_st32 _ _).bind fun _ => tame_st32 _ _).bind fun _ =>
        (tame_attachInterrupts c).bind fun _ => (tame_attachTables c).bind fun _ => tame_done _

theorem tame_detachLane (d : Dir) (n : Lane) : (detachLane d n).tame :=
  (tame_stopSequence d n).bind fun _ => tame_updateChan _ _ _

theorem tame_detachBody : detachBody.tame :=
  tame_params.bind fun _ => (tame_forEach _ (tame_detachLane .tx)).bind fun _ =>
    (tame_forEach _ (tame_detachLane .rx)).bind fun _ => (tame_forEach _ tame_dropTxBuffer).bind fun _ =>
      (tame_st32 _ _).bind fun _ => (tame_st32 _ _).bind fun _ =>
        (tame_update fun _ _ _ => rfl).bind fun _ => tame_done _

theorem tame_claimRxBody (owner : Owner) (cb : Callback) (n : Lane) : (claimRxBody owner cb n).tame :=
  tame_params.bind fun _ => (tame_lookChan _ _).bind fun _ => tame_ite (tame_done _)
    ((tame_updateChan _ _ _).bind fun _ => tame_done _)

theorem tame_claimTxBody (owner : Owner) (cb : Callback) (addr : Word) (n : Lane) :
    (claimTxBody owner cb addr n).tame :=
  tame_params.bind fun _ => (tame_lookChan _ _).bind fun _ => tame_ite (tame_done _)
    ((tame_faultIf _ _).bind fun _ => (tame_lookFits addr).bind fun _ => (tame_faultIf _ _).bind fun _ =>
      (tame_st32 _ _).bind fun _ => (tame_update fun _ _ _ => rfl).bind fun _ =>
        (tame_updateChan _ _ _).bind fun _ => tame_done _)

theorem tame_triggerIdle (n : Lane) (d : Dir) : (triggerIdle n d).tame := by
  cases d
  · exact tame_triggerIdleTx n
  · exact tame_triggerIdleRx n

theorem tame_triggerBody (d : Dir) (n : Lane) : (triggerBody d n).tame :=
  (tame_lookChan d n).bind fun entry => tame_ite (by
    cases entry.run
    · exact (tame_triggerIdle n d).bind fun _ => tame_done _
    · exact tame_done _
    · exact ((tame_setEn d n).bind fun _ => tame_setRun _ _ _).bind fun _ => tame_done _) (tame_done _)

theorem tame_stopBody (d : Dir) (n : Lane) : (stopBody d n).tame :=
  (tame_stopSequence d n).bind fun _ => tame_done _

theorem tame_pauseBody (d : Dir) (n : Lane) : (pauseBody d n).tame :=
  (tame_lookChan d n).bind fun _ => tame_ite
    ((tame_clrEn d n).bind fun _ => (tame_setRun _ _ _).bind fun _ => tame_done _) (tame_done _)

theorem tame_releaseBuffer (n : Lane) (d : Dir) : (releaseBuffer n d).tame := by
  cases d
  · exact tame_dropTxBuffer n
  · exact tame_done ()

theorem tame_releaseBody (d : Dir) (n : Lane) : (releaseBody d n).tame :=
  (tame_lookChan d n).bind fun _ => tame_ite ((tame_stopSequence d n).bind fun _ =>
    (tame_releaseBuffer n d).bind fun _ => (tame_updateChan _ _ _).bind fun _ => tame_done _) (tame_done _)

theorem tame_updswBody (d : Dir) (val : Word) (n : Lane) : (updswBody d val n).tame :=
  tame_params.bind fun _ => (tame_lookChan d n).bind fun _ => tame_ite (tame_done _) (tame_ite
    ((tame_updateChan _ _ _).bind fun _ => (tame_st32 _ _).bind fun _ => tame_done _) (tame_done _))

theorem tame_rdhwBody (d : Dir) (n : Lane) : (rdhwBody d n).tame :=
  tame_params.bind fun _ => (tame_ld32 _).bind fun _ => tame_ite (tame_done _) (tame_corruptPath d n)

theorem tame_drainBytes (n : Lane) (mask tail avail : Nat) (h : Word) :
    (drainBytes n mask tail avail h).tame :=
  (tame_readRing _ _ _ _ _ _).bind fun _ => (tame_drawAccepted _).bind fun _ =>
    (tame_opWhen _ ((tame_emitOwned _ _ _).bind fun _ => tame_emitOwned _ _ _)).bind fun _ =>
      (tame_updateChan _ _ _).bind fun _ => (tame_st32 _ _).bind fun _ => (tame_recheck _ _ _).bind fun _ =>
        tame_done _

theorem tame_drainFrom (n : Lane) (mask tail : Nat) (h : Word) : (drainFrom n mask tail h).tame := by
  unfold drainFrom
  exact (tame_updateChan _ _ _).bind fun _ => tame_ite (tame_done _) (tame_drainBytes _ _ _ _ _)

theorem tame_rxdrainBody (n : Lane) : (rxdrainBody n).tame :=
  (tame_lookChan _ n).bind fun _ => tame_ite (tame_done _) (tame_params.bind fun _ =>
    (tame_ld32 _).bind fun _ => (tame_lookChan _ n).bind fun _ => tame_ite (tame_drainFrom _ _ _ _)
      (tame_corruptPath _ n))

theorem tame_refillBytes (c : Params) (n : Lane) (entry : Chan) (count k : Nat) (data : List Byte) :
    (refillBytes c n entry count k data).tame :=
  (tame_writeRing _ _ _ _ _ _ _).bind fun _ => (tame_updateChan _ _ _).bind fun _ =>
    (tame_st32 _ _).bind fun _ => (tame_opWhen _ (tame_triggerIdleTx n)).bind fun _ =>
      (tame_opWhen _ (tame_emitOwned _ _ _)).bind fun _ =>
        ((tame_lookChan _ n).bind fun _ => tame_opWhen _ (tame_setWork _ n)).bind fun _ => tame_done _

theorem tame_txprodBody (count : Nat) (data : List Byte) (n : Lane) : (txprodBody count data n).tame :=
  tame_params.bind fun _ => (tame_lookChan _ n).bind fun _ => tame_ite (tame_refillBytes _ _ _ _ _ _)
    (tame_done _)

theorem tame_completeTo (n : Lane) (r : Word) : (completeTo n r).tame := by
  unfold completeTo
  exact (tame_updateChan _ _ _).bind fun _ =>
    ((tame_lookChan _ n).bind fun _ => tame_opWhen _ (tame_st32 _ _)).bind fun _ =>
      (tame_recheck _ _ _).bind fun _ => tame_done _

theorem tame_txcompBody (n : Lane) : (txcompBody n).tame :=
  (tame_lookChan _ n).bind fun _ => tame_ite (tame_done _) (tame_params.bind fun _ =>
    (tame_ld32 _).bind fun _ => (tame_lookChan _ n).bind fun _ => tame_ite (tame_completeTo n _)
      (tame_corruptPath _ n))

theorem tame_workTx (n : Lane) : (workTx n).tame :=
  (tame_txcompBody n).bind fun _ => tame_ite (tame_done _) (tame_drawStream.bind fun _ =>
    (tame_lookChan _ n).bind fun _ => tame_ite ((tame_txprodBody _ _ n).bind fun _ => tame_done _)
      (tame_done _))

theorem tame_workBody (d : Dir) (n : Lane) : (workBody d n).tame :=
  (tame_lookChan d n).bind fun _ => tame_ite ((tame_updateChan _ _ _).bind fun _ => by
    cases d
    · exact tame_workTx n
    · exact tame_rxdrainBody n) (tame_done _)

theorem tame_invokeCallback (d : Dir) (n : Lane) (v : Nat) : (invokeCallback d n v).tame :=
  (tame_lookChan d n).bind fun entry => by
    cases entry.slot
    · exact tame_setWork d n
    · exact (tame_emit _).bind fun _ => tame_setWork d n

theorem tame_completeArmed (d : Dir) (n : Lane) : (completeArmed d n).tame :=
  tame_params.bind fun _ => (tame_ld32 _).bind fun _ => tame_ite (tame_invokeCallback _ _ _)
    ((tame_corruptPath d n).bind fun _ => tame_done _)

theorem tame_defensive (d : Dir) (n : Lane) : (defensive d n).tame :=
  (tame_lookChan d n).bind fun _ => (tame_emit _).bind fun _ => (tame_clrEn d n).bind fun _ =>
    tame_opWhen _ (tame_params.bind fun _ => (tame_ld32 _).bind fun _ => tame_opWhen _ (tame_updateChan _ _ _))

theorem tame_serviceLane (d : Dir) (v : Word) (n : Lane) : (serviceLane d v n).tame :=
  tame_opWhen _ ((tame_st32 _ _).bind fun _ => (tame_lookChan d n).bind fun _ =>
    tame_ite (tame_completeArmed d n) (tame_defensive d n))

theorem tame_dispatchBody : dispatchBody.tame :=
  tame_params.bind fun _ => (tame_ld32 _).bind fun _ => (tame_ld32 _).bind fun _ =>
    (tame_opWhen _ (tame_emit _)).bind fun _ => (tame_opWhen _ (tame_emit _)).bind fun _ =>
      tame_ite ((tame_emit _).bind fun _ => tame_done _)
        ((tame_forEach _ (tame_serviceLane .tx _)).bind fun _ =>
          (tame_forEach _ (tame_serviceLane .rx _)).bind fun _ => tame_done _)

theorem tame_attachedOnly {body : Op Ret} (h : body.tame) : (attachedOnly body).tame :=
  tame_lookAttached.bind fun _ => tame_ite h (tame_faultWith _)

theorem tame_laneBody (f : LaneField) {body : Lane → Op Ret} (h : ∀ n, (body n).tame) :
    (laneBody f body).tame :=
  tame_params.bind fun c => by
    cases laneOf c f with
    | none => exact tame_done _
    | some n => exact h n

/-- Every command is a tame body and its `Result`. -/
theorem commandOf_tame {i : Instr} {x : Op Unit} (h : commandOf i = some x) :
    ∃ body : Op Ret, body.tame ∧ x = commandProgram i body := by
  have attached : ∀ {body : Op Ret}, body.tame → ∃ b : Op Ret, b.tame ∧
      attachedProgram i body = commandProgram i b := fun hb => ⟨_, tame_attachedOnly hb, rfl⟩
  have lane : ∀ (f : LaneField) {body : Lane → Op Ret}, (∀ n, (body n).tame) → ∃ b : Op Ret, b.tame ∧
      laneProgram i f body = commandProgram i b := fun f _ hb => attached (tame_laneBody f hb)
  cases i <;> simp only [commandOf, Option.some.injEq, reduceCtorEq] at h <;> subst h
  case attach => exact ⟨_, tame_attachBody, rfl⟩
  case detach => exact attached tame_detachBody
  case claimTx f owner cb addr => exact lane f (tame_claimTxBody owner cb addr)
  case claimRx f owner cb => exact lane f (tame_claimRxBody owner cb)
  case trigger d f => exact lane f (tame_triggerBody d)
  case stop d f => exact lane f (tame_stopBody d)
  case pause d f => exact lane f (tame_pauseBody d)
  case release d f => exact lane f (tame_releaseBody d)
  case updsw d f val => exact lane f (tame_updswBody d val)
  case rdhw d f => exact lane f (tame_rdhwBody d)
  case dispatch => exact attached tame_dispatchBody
  case rxdrain f => exact lane f tame_rxdrainBody
  case txprod f count data => exact lane f (tame_txprodBody count data)
  case txcomp f => exact lane f tame_txcompBody
  case work d f => exact lane f (tame_workBody d)

end Sys2Proof.Machine
end

section
/-! A command that is interrupted between its micro-steps goes on to the outcome that it has when it runs in one
piece (10_state R47, 20_memory R74; log 4, 28, 29). -/

namespace Sys2Proof.Machine

/-! ### Programs that end with their `Result` -/

/-- A program of the command `i`: its accesses are aloof, it looks at the control part only, and its last
access, and no other, is the command's end. -/
def Op.closes (i : Instr) : Op Unit → Prop
  | .done _ => False
  | .stop _ => True
  | .config k => ∀ c, (k c).closes i
  | .look f k => ControlOnly f ∧ ∀ x, (k x).closes i
  | .access f k => (Aloof f ∧ ∀ x, (k x).closes i) ∨
      (∃ r, ∀ s, f s = .ok ({}, endCommand i r s)) ∧ ∀ x, k x = .done ()

theorem closes_bind_end (i : Instr) {body : Op Ret} (h : body.tame) :
    (body.bind fun r => update (endCommand i r)).closes i := by
  induction body with
  | done r => exact .inr ⟨⟨r, fun _ => rfl⟩, fun _ => rfl⟩
  | stop r => trivial
  | config k ih => exact fun c => ih c (h c)
  | look f k ih => exact ⟨h.1, fun x => ih x (h.2 x)⟩
  | access f k ih => exact .inl ⟨h.1, fun x => ih x (h.2 x)⟩

theorem commandOf_closes {i : Instr} {x : Op Unit} (h : commandOf i = some x) : x.closes i := by
  obtain ⟨body, hb, rfl⟩ := commandOf_tame h
  exact closes_bind_end i hb

/-- What is left of such a program is one too, unless nothing is. -/
theorem closes_resume {i : Instr} {c : Params} {x : Op Unit} (h : x.closes i) :
    ∀ l, x.resume c l = .done () ∨ (x.resume c l).closes i := by
  induction x with
  | done a => exact h.elim
  | stop r => exact fun l => .inr trivial
  | config k ih => exact ih c (h c)
  | look f k ih =>
    intro l
    cases l with
    | nil => exact .inr h
    | cons y l => exact ih y (h.2 y) l
  | access f k ih =>
    intro l
    cases l with
    | nil => exact .inr h
    | cons y l =>
      obtain ⟨-, hk⟩ | ⟨-, hk⟩ := h
      · exact ih y (hk y) l
      · left
        show (k y).resume c l = .done ()
        rw [hk y]
        rfl

/-! ### One micro-step of a running command -/

/-- The micro-step that ran left the command running, one index on, or ended it (R47). -/
def Advanced (i : Instr) (k : Nat) (t : State) : Prop :=
  t.cur = some (i, k + 1) ∨ (t.cur = none ∧ ∃ code v, t.hist.getLast? = some (.result i code v))

theorem remember_cur (x : Datum) (s : State) : (remember x s).cur = s.cur := by
  unfold remember
  split <;> simp [*]

theorem remember_hist (x : Datum) (s : State) : (remember x s).hist = s.hist := by
  unfold remember
  split <;> rfl

theorem closes_micro {i : Instr} {x : Op Unit} (h : x.closes i) :
    ∀ {s t : State} {k : Nat}, s.cur = some (i, k) → x.micro s = .next t → Advanced i k t := by
  induction x with
  | done a => exact h.elim
  | stop r => exact fun _ e => absurd e (r.outcome_ne_next _)
  | config g ih => intro s t k hc e; exact ih s.cfg (h s.cfg) hc e
  | look f g ih => intro s t k hc e; exact ih (f s) (h.2 (f s)) ((remember_cur (f s) s).trans hc) e
  | access f g ih =>
    intro s t k hc e
    have hb : (boundary s).cur = some (i, k + 1) := by simp [boundary_cur, hc]
    simp only [Op.micro] at e
    split at e
    · rename_i y u hu
      cases e
      obtain ⟨hf, -⟩ | ⟨⟨r, hf⟩, -⟩ := h
      · exact .inl ((remember_cur y u).trans ((hf.cur hu).trans hb))
      · rw [hf] at hu
        cases hu
        exact .inr ⟨by simp [remember_cur], r.code, r.value, by simp [remember_hist]⟩
    · exact absurd e (Stop.outcome_ne_next _ _)

/-- Starting a command's first micro-step, its packet is gone. -/
theorem micro_inbox {i : Instr} {x : Op Unit} (hx : commandOf i = some x) {s t : State}
    (e : x.micro s = .next t) : t.inbox = s.inbox := by
  have hn : ∀ l (u : State), (noted l u).inbox = u.inbox := fun l u => by
    obtain ⟨m, h⟩ := noted_eq l u
    rw [h]
  rcases each_micro (commandOf_effects hx) rfl e with ⟨l, rfl⟩ | ⟨l, y, u, hu, rfl⟩
  · exact hn l s
  · have : (remember y u).inbox = u.inbox := hn [y] u
    rw [this, hu.kept.inbox, boundary_inbox, hn]

/-- Settles O7: the schedule's head slot first; then one micro-step of the program that runs. -/
theorem atomicStepIsOneMicroStep : Obligations.AtomicStepIsOneMicroStep := by
  intro s t hf hr hp h
  refine ⟨fun l ls rest hs => ?_, fun hm => ⟨fun i k hc hleft => ?_, fun p rest i hc hi hd hcmd => ?_⟩⟩
  · rw [step_lane hf hr hp hs] at h
    exact (Host.Outcome.next.inj h).symm
  · rw [step_control hf hr hp hm, controlTurn_running hc] at h
    unfold pendingProgram at h hleft
    cases hx : commandOf i with
    | none => rw [hx] at hleft; exact absurd rfl hleft
    | some x =>
      simp only [hx] at h hleft
      have hcl := (closes_resume (commandOf_closes hx) s.seen).resolve_left hleft
      exact closes_micro hcl hc h
  · obtain ⟨x, hx⟩ := commandOf_of_isCommand hcmd
    rw [step_control hf hr hp hm, controlTurn_packet hc hi, takePacket_decoded hd,
      startInstruction_command hx] at h
    exact ⟨micro_inbox hx h, closes_micro (commandOf_closes hx) rfl h⟩

/-! ### States between two steps of the lane agents -/

/-- The schedule replaced. -/
def State.withSched (s : State) (a : List (List LaneStep)) : State := { s with sched := a }

/-- The lane agents do not see the schedule. -/
theorem laneStep_withSched (s : State) (a : List (List LaneStep)) (l : LaneStep) :
    laneStep (s.withSched a) l = (laneStep s l).withSched a := by
  cases l with
  | rxByte n b =>
    show (if rxByteEnabled s n = true then _ else _) = State.withSched (if _ then _ else _) _
    split <;> rfl
  | txByte n =>
    show (if txByteEnabled s n = true then _ else _) = State.withSched (if _ then _ else _) _
    split <;> rfl
  | status e n =>
    show (if laneActive s e n = true then _ else _) = State.withSched (if _ then _ else _) _
    cases e <;> split <;> rfl
  | corrupt e n v =>
    show (if (s.cfg.hwMayCorrupt && s.cfg.hasLane n && !testLane (s.bank e).rst n) = true then _ else _) =
      State.withSched (if _ then _ else _) _
    cases e <;> split <;> rfl

/-- Once the rest of the head slot is used up, both states are the same: `t` comes from `s` by some of the
lane-agent steps of that slot. -/
def SameSlot (s t : State) : Prop := interleave t = interleave s

/-- A lane-agent step of the head slot (R72). -/
theorem sameSlot_lane {s : State} {l : LaneStep} {ls : List LaneStep} {rest : List (List LaneStep)}
    (h : s.sched = (l :: ls) :: rest) : SameSlot s (laneStep { s with sched := ls :: rest } l) := by
  have hs : laneStep { s with sched := ls :: rest } l = (laneStep s l).withSched (ls :: rest) :=
    laneStep_withSched s _ l
  have hr : laneStep { s with sched := rest } l = (laneStep s l).withSched rest := laneStep_withSched s _ l
  calc interleave (laneStep { s with sched := ls :: rest } l)
      = laneSteps ((laneStep s l).withSched rest) ls := by rw [hs]; rfl
    _ = laneSteps (laneStep { s with sched := rest } l) ls := by rw [hr]
    _ = interleave s := by simp [interleave, h, laneSteps]

namespace SameSlot

variable {s t : State} (h : SameSlot s t)

include h

/-- What one slot of lane-agent steps keeps, the two states have in common. -/
theorem field {α : Type} (f : State → α) (hf : ∀ x, f (interleave x) = f x) : f t = f s := by
  rw [← hf t, h, hf s]

theorem cfg : t.cfg = s.cfg := h.field State.cfg fun x => (interleave_frame x).cfg
theorem cur : t.cur = s.cur := h.field State.cur fun x => (interleave_frame x).cur
theorem seen : t.seen = s.seen := h.field State.seen fun x => (interleave_frame x).seen
theorem inbox : t.inbox = s.inbox := h.field State.inbox fun x => (interleave_frame x).inbox
theorem faulted : t.faulted = s.faulted := h.field State.faulted fun x => (interleave_frame x).faulted
theorem refused : t.refused = s.refused := h.field State.refused fun x => (interleave_frame x).refused
theorem pace : t.pace = s.pace := h.field State.pace fun x => (interleave_frame x).pace
theorem controlPart : controlPart t = controlPart s := h.field Machine.controlPart controlPart_interleave
theorem boundary : boundary t = boundary s := congrArg advanceCur h

theorem withInbox (rest : List Packet) : SameSlot { s with inbox := rest } { t with inbox := rest } := by
  have hb : ∀ x : State, interleave { x with inbox := rest } =
      (interleave x).withBusiness x.cur x.seen rest x.draws :=
    fun x => interleave_withBusiness x x.cur x.seen rest x.draws
  have hd : t.draws = s.draws := h.field State.draws fun x => (interleave_frame x).draws
  show interleave _ = interleave _
  rw [hb, hb, h, h.cur, h.seen, hd]

theorem beginCommand (i : Instr) : SameSlot (beginCommand i s) (beginCommand i t) := by
  show interleave _ = interleave _
  rw [interleave_beginCommand, interleave_beginCommand, h]

end SameSlot

/-! ### The outcome of a program does not depend on where it was interrupted -/

theorem boundary_withRun (s : State) (q : List Datum) :
    boundary (s.withRun s.cur q) = (boundary s).withRun (boundary s).cur q := by
  have frame := interleave_frame s
  have hi : interleave (s.withRun s.cur q) = (interleave s).withBusiness s.cur q s.inbox s.draws :=
    interleave_withBusiness s s.cur q s.inbox s.draws
  rw [boundary, hi, ← frame.cur, ← frame.inbox, ← frame.draws]
  rfl

/-- Nor on the notes of what it has read. -/
theorem closes_run_withRun {i : Instr} {x : Op Unit} (h : x.closes i) :
    ∀ (s : State) (q : List Datum), outcomeOf (x.run (s.withRun s.cur q)) = outcomeOf (x.run s) := by
  induction x with
  | done a => exact h.elim
  | stop r => exact fun s q => rfl
  | config k ih => exact fun s q => ih s.cfg (h s.cfg) s q
  | look f k ih =>
    intro s q
    have hf : f (s.withRun s.cur q) = f s := h.1 s _ rfl
    simp only [Op.run, hf]
    exact ih (f s) (h.2 (f s)) s q
  | access f k ih =>
    intro s q
    simp only [Op.run, boundary_withRun]
    obtain ⟨hf, hk⟩ | ⟨⟨r, hf⟩, hk⟩ := h
    · rw [hf]
      cases e : f (boundary s) with
      | error r => rfl
      | ok p =>
        simp only [Except.map]
        rw [← hf.cur e]
        exact ih p.1 (hk p.1) p.2 q
    · rw [hf, hf]
      simp only [hk]
      rfl

/-- Nor on how many steps of the slot the lane agents have taken already. -/
theorem closes_run_sameSlot {i : Instr} {x : Op Unit} (h : x.closes i) {s t : State} (hst : SameSlot s t) :
    outcomeOf (x.run t) = outcomeOf (x.run s) := by
  induction x with
  | done a => exact h.elim
  | stop r => rfl
  | config k ih =>
    simp only [Op.run, hst.cfg]
    exact ih s.cfg (h s.cfg)
  | look f k ih =>
    simp only [Op.run, h.1 s t hst.controlPart]
    exact ih (f s) (h.2 (f s))
  | access f k ih =>
    simp only [Op.run, hst.boundary]

theorem closes_resume_nil {i : Instr} {c : Params} {x : Op Unit} (h : x.closes i) :
    (x.resume c []).closes i := by
  induction x with
  | config k ih => exact ih c (h c)
  | _ => exact h

/-! ### Reaching an outcome by atomic steps -/

/-- After some steps, the next one answers `o`. -/
def Reaches (o : Host.Outcome State Fault Refusal) (s : State) : Prop :=
  ∃ (k : Nat) (u : State), Host.Core.run Sys2Proof.core k s = .next u ∧ step u = o

variable {o : Host.Outcome State Fault Refusal}

theorem Reaches.now {s : State} (h : step s = o) : Reaches o s := ⟨0, s, rfl, h⟩

theorem Reaches.later {s t : State} (h : step s = .next t) (k : Reaches o t) : Reaches o s := by
  obtain ⟨n, u, hu, ho⟩ := k
  have hs : Sys2Proof.core.step s = .next t := h
  exact ⟨n + 1, u, by simpa only [Host.Core.run, hs] using hu, ho⟩

/-- Where it is not the control unit's turn, the head slot holds a lane-agent step. -/
theorem controlMoves_eq_false {s : State} (h : controlMoves s = false) :
    s.pace = .atomic ∧ ∃ l ls rest, s.sched = (l :: ls) :: rest := by
  unfold controlMoves at h
  split at h
  · exact ⟨‹_›, _, _, _, ‹_›⟩
  · cases h

theorem controlMoves_of_head_nil {s : State} (h : s.sched.headD [] = []) : controlMoves s = true := by
  unfold controlMoves
  split
  · simp_all
  · rfl

/-- At atomic pace the lane agents use up the head slot, and then it is the control unit's turn. -/
theorem Reaches.of_control {s : State} (hf : s.faulted = none) (hr : s.refused = false)
    (hp : s.pace = .atomic) (h : ∀ t, SameSlot s t → controlMoves t = true → Reaches o t) : Reaches o s := by
  generalize hl : s.sched.headD [] = slot
  induction slot generalizing s with
  | nil => exact h s rfl (controlMoves_of_head_nil hl)
  | cons l ls ih =>
    obtain ⟨rest, hs⟩ : ∃ rest, s.sched = (l :: ls) :: rest := by
      cases hs : s.sched with
      | nil => rw [hs] at hl; cases hl
      | cons a rest => rw [hs] at hl; exact ⟨rest, by rw [← hl]; rfl⟩
    have same := sameSlot_lane hs
    refine .later (step_lane hf hr hp hs) (ih (same.faulted.trans hf) (same.refused.trans hr)
      (same.pace.trans hp) (fun t ht => h t (ht.trans same)) ?_)
    rw [show (laneStep { s with sched := ls :: rest } l).sched = ls :: rest from laneSteps_sched [l] _]
    rfl

/-! ### A command between two of its micro-steps -/

/-- At atomic pace `s` is in the middle of the command `i`, which goes on to the outcome `o`. -/
structure MidCommand (i : Instr) (o : Host.Outcome State Fault Refusal) (s : State) : Prop where
  running : ∃ j, s.cur = some (i, j)
  unfaulted : s.faulted = none
  unrefused : s.refused = false
  atomic : s.pace = .atomic
  closes : (pendingProgram s i).closes i
  outcome : outcomeOf ((pendingProgram s i).run s) = o

theorem pendingProgram_eq {i : Instr} {x : Op Unit} (h : commandOf i = some x) (s : State) :
    pendingProgram s i = x.resume s.cfg s.seen := by simp [pendingProgram, h]

/-- In `s`, at atomic pace, the command `i` is running and `x` is what is left of its program `p`. -/
structure Left (i : Instr) (p x : Op Unit) (s : State) : Prop where
  running : ∃ j, s.cur = some (i, j)
  unfaulted : s.faulted = none
  unrefused : s.refused = false
  atomic : s.pace = .atomic
  left : ∀ l, p.resume s.cfg (s.seen ++ l) = x.resume s.cfg l

theorem Left.sameSlot {i : Instr} {p x : Op Unit} {s t : State} (h : Left i p x s) (hst : SameSlot s t) :
    Left i p x t := by
  obtain ⟨⟨j, hcur⟩, hf, hr, ha, hleft⟩ := h
  exact ⟨⟨j, hst.cur.trans hcur⟩, hst.faulted.trans hf, hst.refused.trans hr, hst.pace.trans ha,
    fun l => by rw [hst.cfg, hst.seen, hleft]⟩

/-- What the command reads is taken off what is left. -/
theorem Left.noted {i : Instr} {p x y : Op Unit} {s t : State} {v : Datum} (h : Left i p x s)
    (running : ∃ j, t.cur = some (i, j)) (faulted : t.faulted = s.faulted) (refused : t.refused = s.refused)
    (pace : t.pace = s.pace) (cfg : t.cfg = s.cfg) (seen : t.seen = s.seen ++ [v])
    (next : ∀ l, x.resume s.cfg (v :: l) = y.resume s.cfg l) : Left i p y t where
  running := running
  unfaulted := faulted.trans h.unfaulted
  unrefused := refused.trans h.unrefused
  atomic := pace.trans h.atomic
  left l := by rw [cfg, seen, List.append_assoc, h.left, List.singleton_append, next]

theorem Left.pending {i : Instr} {p x : Op Unit} {s : State} (hp : commandOf i = some p) (h : Left i p x s) :
    pendingProgram s i = x.resume s.cfg [] := by
  rw [pendingProgram_eq hp, ← h.left, List.append_nil]

theorem Left.midCommand {i : Instr} {p x : Op Unit} {s : State} (hp : commandOf i = some p) (h : Left i p x s)
    (hx : x.closes i) : MidCommand i (outcomeOf (x.run s)) s := by
  refine ⟨h.running, h.unfaulted, h.unrefused, h.atomic, ?_, ?_⟩
  · rw [h.pending hp]
    exact closes_resume_nil hx
  · rw [h.pending hp, resume_nil_run]

/-- The control unit's turn is one micro-step of what is left. -/
theorem Left.step {i : Instr} {p x : Op Unit} {s : State} (hp : commandOf i = some p) (h : Left i p x s)
    (hm : controlMoves s = true) : step s = x.micro s := by
  obtain ⟨j, hcur⟩ := h.running
  rw [step_control h.unfaulted h.unrefused h.atomic hm, controlTurn_running hcur, h.pending hp, resume_nil_micro]

/-- What is left after a micro-step that is not the last. -/
theorem Left.access {i : Instr} {p : Op Unit} {f : State → Except Stop (Datum × State)} {k : Datum → Op Unit}
    {s u : State} {y : Datum} (h : Left i p (.access f k) s) (hf : Aloof f)
    (e : f (boundary s) = .ok (y, u)) (he : (Op.access f k).effects s.cfg) (hk : (k y).closes i) :
    Left i p (k y) (remember y u) ∧
      outcomeOf ((k y).run (remember y u)) = outcomeOf ((Op.access f k).run s) := by
  obtain ⟨j, hcur⟩ := h.running
  have kept : Appends s (remember y u) := appends_stepClosed.micro he (by simp [Op.micro, e])
  have hucur : u.cur = some (i, j + 1) := by rw [hf.cur e, boundary_cur, hcur]; rfl
  have hnote : remember y u = u.withRun u.cur (s.seen ++ [y]) := by
    rw [show remember y u = _ from noted_running hucur [y], hf.seen e, boundary_seen]; rfl
  refine ⟨h.noted ⟨j + 1, by rw [hnote]; exact hucur⟩ kept.faulted kept.refused kept.pace kept.cfg
    (by rw [hnote]; rfl) fun _ => rfl, ?_⟩
  rw [hnote, closes_run_withRun hk]
  simp [Op.run, e]

/-- One micro-step of what is left, `x`, of a command's program `p`: it answers what `x` answers when it runs
in one piece, or the command goes on to that. -/
theorem closes_micro_reaches {i : Instr} {p : Op Unit} (hp : commandOf i = some p) {c : Params} {x : Op Unit}
    (hx : x.closes i) (he : x.effects c) : ∀ {s : State}, s.cfg = c → Left i p x s →
      x.micro s = outcomeOf (x.run s) ∨ ∃ t, x.micro s = .next t ∧
        MidCommand i (outcomeOf (x.run s)) t ∧ Reaches (outcomeOf (x.run s)) t := by
  induction x with
  | done a => exact hx.elim
  | stop r => exact fun _ _ => .inl rfl
  | config k ih =>
    intro s hc h
    subst hc
    exact ih s.cfg (hx s.cfg) he rfl ⟨h.running, h.unfaulted, h.unrefused, h.atomic, h.left⟩
  | look f k ih =>
    intro s hc h
    obtain ⟨j, hcur⟩ := h.running
    have e : remember (f s) s = s.withRun s.cur (s.seen ++ [f s]) := noted_running hcur [f s]
    have hleft : Left i p (k (f s)) (remember (f s) s) := by
      rw [e]
      exact h.noted ⟨j, hcur⟩ rfl rfl rfl rfl rfl fun _ => rfl
    have hrun : outcomeOf ((k (f s)).run (remember (f s) s)) = outcomeOf ((k (f s)).run s) := by
      rw [e, closes_run_withRun (hx.2 (f s))]
    have := ih (f s) (hx.2 (f s)) (he (f s)) (by rw [e]; exact hc) hleft
    rwa [hrun] at this
  | access f k ih =>
    intro s hc h
    cases e : f (boundary s) with
    | error r => exact .inl (by simp [Op.micro, Op.run, e, outcomeOf])
    | ok q =>
      obtain ⟨y, u⟩ := q
      have hmicro : (Op.access f k).micro s = .next (remember y u) := by simp [Op.micro, e]
      obtain ⟨haloof, hk⟩ | ⟨⟨r, hend⟩, hk⟩ := hx
      · obtain ⟨hleft, hout⟩ := h.access haloof e (hc ▸ he) (hk y)
        have cfg : (remember y u).cfg = c := (appends_stepClosed.micro (hc ▸ he) hmicro).cfg.trans hc
        rw [← hout]
        refine .inr ⟨_, hmicro, hleft.midCommand hp (hk y),
          .of_control hleft.unfaulted hleft.unrefused hleft.atomic fun v hv hm => ?_⟩
        have := ih y (hk y) (he.2 y) (hv.cfg.trans cfg) (hleft.sameSlot hv)
        rw [closes_run_sameSlot (hk y) hv, ← (hleft.sameSlot hv).step hp hm] at this
        obtain h | ⟨w, hw, -, hreach⟩ := this
        · exact .now h
        · exact .later hw hreach
      · rw [hend] at e
        cases e
        have hrun : (Op.access f k).run s = .ok () (endCommand i r (boundary s)) := by
          simp only [Op.run, hend, hk]
        exact .inl (by rw [hmicro, hrun]; rfl)

/-- The control unit's turn in the middle of a command. -/
theorem MidCommand.controlTurn {i : Instr} {s : State} (h : MidCommand i o s) :
    controlTurn s = o ∨ ∃ t, controlTurn s = .next t ∧ MidCommand i o t ∧ Reaches o t := by
  obtain ⟨⟨j, hcur⟩, hf, hr, ha, hcl, rfl⟩ := h
  cases hp : commandOf i with
  | none => simp [pendingProgram, hp, Op.closes] at hcl
  | some p =>
    rw [controlTurn_running hcur]
    exact closes_micro_reaches hp hcl (pendingProgram_effects s i) rfl ⟨⟨j, hcur⟩, hf, hr, ha, fun l => by
      rw [pendingProgram_eq hp, resume_append]⟩

/-- A step of the lane agents in the middle of a command. -/
theorem MidCommand.sameSlot {i : Instr} {s t : State} (h : MidCommand i o s) (hst : SameSlot s t) :
    MidCommand i o t := by
  obtain ⟨⟨j, hcur⟩, hf, hr, ha, hcl, hout⟩ := h
  have hpend : pendingProgram t i = pendingProgram s i := by simp only [pendingProgram, hst.cfg, hst.seen]
  exact ⟨⟨j, hst.cur.trans hcur⟩, hst.faulted.trans hf, hst.refused.trans hr, hst.pace.trans ha,
    hpend ▸ hcl, by rw [hpend, closes_run_sameSlot hcl hst, hout]⟩

/-- A step in the middle of a command ends it with its outcome, or leaves it in its middle. -/
theorem MidCommand.step {i : Instr} {s t : State} (h : MidCommand i o s) (e : step s = .next t) :
    o = .next t ∨ MidCommand i o t := by
  cases hm : controlMoves s with
  | true =>
    rw [step_control h.unfaulted h.unrefused h.atomic hm] at e
    obtain hc | ⟨u, hu, hmid, -⟩ := h.controlTurn
    · exact .inl (hc ▸ e)
    · rw [hu] at e
      cases e
      exact .inr hmid
  | false =>
    obtain ⟨-, l, ls, rest, hs⟩ := controlMoves_eq_false hm
    rw [step_lane h.unfaulted h.unrefused h.atomic hs] at e
    cases e
    exact .inr (h.sameSlot (sameSlot_lane hs))

/-- The first micro-step of a command that a packet brought. -/
theorem startInstruction_reaches {i : Instr} {s : State} (hf : s.faulted = none) (hr : s.refused = false)
    (ha : s.pace = .atomic) : startInstruction i s = exec i s ∨
      ∃ t, startInstruction i s = .next t ∧ MidCommand i (exec i s) t ∧ Reaches (exec i s) t := by
  cases hp : commandOf i with
  | none => exact .inl (startInstruction_direct hp s)
  | some p =>
    rw [startInstruction_command hp, exec_command hp]
    exact closes_micro_reaches hp (commandOf_closes hp) (commandOf_effects hp) (s := beginCommand i s) rfl
      ⟨⟨0, rfl⟩, hf, hr, ha, fun _ => rfl⟩

/-- What an instruction answers does not depend on how many steps of the slot the lane agents have taken
already. -/
theorem exec_sameSlot {i : Instr} {s t : State} (h : SameSlot s t) : exec i t = exec i s := by
  cases hp : commandOf i with
  | some p =>
    rw [exec_command hp, exec_command hp]
    exact closes_run_sameSlot (commandOf_closes hp) (h.beginCommand i)
  | none =>
    obtain ⟨r, e⟩ | ⟨r, v, e⟩ := exec_direct hp
    · rw [e, e, directRead, directRead, h.boundary]
    · rw [e, e, directWrite, directWrite, h.boundary]

/-- Settles O8: the lane agents use up the head slot, the packet is taken, and then the command goes on,
micro-step by micro-step, to the outcome that it has in one piece. -/
theorem microStepsReachExec : Obligations.MicroStepsReachExec := by
  intro s p rest i hf hr ha hc hi hd
  refine Reaches.of_control hf hr ha fun t ht hm => ?_
  have htf := ht.faulted.trans hf
  have htr := ht.refused.trans hr
  have hta := ht.pace.trans ha
  have hstep : step t = startInstruction i { t with inbox := rest } := by
    rw [step_control htf htr hta hm, controlTurn_packet (ht.cur.trans hc) (ht.inbox.trans hi),
      takePacket_decoded (by rw [ht.cfg]; exact hd)]
  have hexec := exec_sameSlot (i := i) (ht.withInbox rest)
  rw [← hexec]
  obtain h | ⟨u, hu, -, hreach⟩ :=
    startInstruction_reaches (i := i) (s := { t with inbox := rest }) htf htr hta
  · exact .now (hstep.trans h)
  · exact .later (hstep.trans hu) hreach

end Sys2Proof.Machine
end

section
/-! What a piece of a command guarantees of the state that it leaves, and of how it may stop; the rules by which
such guarantees are put together. -/

namespace Sys2Proof.Machine

variable {α β : Type} {F : Stop → Prop}

/-- Run from `s`, the piece leaves a value and a state with `Q`, or stops in a way that `F` allows. -/
def Op.ensures (F : Stop → Prop) (x : Op α) (s : State) (Q : α → State → Prop) : Prop :=
  match x.run s with
  | .ok a t => Q a t
  | .error e _ => F e

theorem ensures_of_run {x : Op α} {s t : State} {a : α} {Q : α → State → Prop} (h : x.run s = .ok a t)
    (hQ : Q a t) : x.ensures F s Q := by simpa only [Op.ensures, h] using hQ

theorem ensures_of_all {x : Op α} {s : State} {Q : α → State → Prop}
    (h : ∀ a t, x.run s = .ok a t → Q a t) : x.ensures (fun _ => True) s Q := by
  unfold Op.ensures
  cases e : x.run s with
  | ok a t => exact h a t e
  | error e t => trivial

theorem ensures_mono {x : Op α} {s : State} {Q Q' : α → State → Prop} (h : x.ensures F s Q)
    (hQ : ∀ a t, Q a t → Q' a t) : x.ensures F s Q' := by
  unfold Op.ensures at h ⊢
  cases e : x.run s with
  | ok a t => rw [e] at h; exact hQ a t h
  | error r t => rw [e] at h; exact h

/-- Also what is known of every way the piece can end. -/
theorem ensures_and_run {x : Op α} {s : State} {Q Q' : α → State → Prop} (h : x.ensures F s Q)
    (hQ : ∀ a t, x.run s = .ok a t → Q a t → Q' a t) : x.ensures F s Q' := by
  unfold Op.ensures at h ⊢
  cases e : x.run s with
  | ok a t => rw [e] at h; exact hQ a t e h
  | error r t => rw [e] at h; exact h

section
variable {s : State}

@[simp] theorem ensures_bind {x : Op α} {f : α → Op β} {Q : β → State → Prop} :
    (x.bind f).ensures F s Q ↔ x.ensures F s fun a t => (f a).ensures F t Q := by
  simp only [Op.ensures, run_bind]
  cases x.run s <;> rfl

@[simp] theorem ensures_done {a : α} {Q : α → State → Prop} : (Op.done a).ensures F s Q ↔ Q a s := Iff.rfl

@[simp] theorem ensures_stop {r : Stop} {Q : α → State → Prop} :
    (Op.stop r : Op α).ensures F s Q ↔ F r := Iff.rfl

@[simp] theorem ensures_params {Q : Params → State → Prop} : params.ensures F s Q ↔ Q s.cfg s := Iff.rfl

@[simp] theorem ensures_lookAttached {Q : Bool → State → Prop} :
    lookAttached.ensures F s Q ↔ Q s.attached s := Iff.rfl

@[simp] theorem ensures_lookChan {d : Dir} {n : Lane} {Q : Chan → State → Prop} :
    (lookChan d n).ensures F s Q ↔ Q (s.chan d n) s := Iff.rfl

@[simp] theorem ensures_lookFits {a : Word} {Q : Bool → State → Prop} :
    (lookFits a).ensures F s Q ↔ Q (txBufferFits s a) s := Iff.rfl

@[simp] theorem ensures_update {f : State → State} {Q : Unit → State → Prop} :
    (update f).ensures F s Q ↔ Q () (f (boundary s)) := Iff.rfl

@[simp] theorem ensures_updateChan {d : Dir} {n : Lane} {f : Chan → Chan} {Q : Unit → State → Prop} :
    (updateChan d n f).ensures F s Q ↔ Q () ((boundary s).setChan d n (f (s.chan d n))) := by
  simp only [Op.ensures, updateChan_run]

/-- `if c then fault(r)`: the fault is allowed, or the condition does not hold. -/
theorem ensures_faultIf {b : Bool} {r : Fault} {Q : Unit → State → Prop} (hF : b = true → F (.fault r))
    (hQ : b = false → Q () s) : (faultIf b r).ensures F s Q := by
  cases b
  · exact hQ rfl
  · exact hF rfl

theorem ensures_ite {p : Prop} [Decidable p] {x y : Op α} {Q : α → State → Prop}
    (hx : p → x.ensures F s Q) (hy : ¬p → y.ensures F s Q) : (if p then x else y).ensures F s Q := by
  split
  · exact hx ‹_›
  · exact hy ‹_›

theorem ensures_opWhen {b : Bool} {x : Op Unit} {Q : Unit → State → Prop}
    (hx : b = true → x.ensures F s Q) (hQ : b = false → Q () s) : (opWhen b x).ensures F s Q := by
  cases b
  · exact hQ rfl
  · exact hx rfl

/-- A loop guarantees, of the part `done` of the list it has gone through, what each round adds to it. -/
theorem ensures_forEach {ι : Type} {f : ι → Op Unit} (I : List ι → State → Prop) (l : List ι) :
    ∀ (done : List ι) (s : State), I done s →
      (∀ a ∈ l, ∀ (d : List ι) (t : State), I d t → (f a).ensures F t fun _ => I (d ++ [a])) →
      (forEach l f).ensures F s fun _ => I (done ++ l) := by
  induction l with
  | nil => intro done s h _; simpa [forEach] using h
  | cons a l ih =>
    intro done s h hf
    refine ensures_bind.mpr (ensures_mono (hf a List.mem_cons_self done s h) fun _ t ht => ?_)
    have := ih (done ++ [a]) t ht fun b hb => hf b (List.mem_cons_of_mem a hb)
    rwa [List.append_assoc] at this

/-- A loop keeps what each of its rounds keeps. -/
theorem ensures_forEach_keep {ι : Type} {f : ι → Op Unit} {I : State → Prop} {l : List ι} (h : I s)
    (hf : ∀ a ∈ l, ∀ t, I t → (f a).ensures F t fun _ => I) : (forEach l f).ensures F s fun _ => I :=
  ensures_forEach (fun _ => I) l [] s h fun a ha _ t ht => hf a ha t ht

end

/-! ### Commands -/

/-- How a command ends, from what its body guarantees. -/
theorem runCommand_ensures {i : Instr} {body : Op Ret} {s : State} {Q : Ret → State → Prop}
    (h : body.ensures F (beginCommand i s) Q) :
    (∀ t, runCommand i (commandProgram i body) s = .next t →
      ∃ r u, Q r u ∧ t = endCommand i r (boundary u)) ∧
    (∀ r, runCommand i (commandProgram i body) s = .fault r → F (.fault r)) ∧
    (∀ r, runCommand i (commandProgram i body) s = .refused r → F (.refused r)) := by
  simp only [runCommand_eq]
  unfold Op.ensures at h
  cases e : body.run (beginCommand i s) with
  | ok r u =>
    rw [e] at h
    simp only [finished, Host.Outcome.next.injEq, reduceCtorEq, false_implies, implies_true, and_true]
    exact fun t ht => ⟨r, u, h, ht.symm⟩
  | error r u =>
    rw [e] at h
    cases r <;> simpa [finished, Stop.outcome] using h

theorem ensures_attachedOnly {body : Op Ret} {s : State} {Q : Ret → State → Prop}
    (hF : F (.fault .notAttached)) (h : s.attached = true → body.ensures F s Q) :
    (attachedOnly body).ensures F s Q := by
  refine ensures_bind.mpr (ensures_lookAttached.mpr (ensures_ite h fun _ => hF))

theorem ensures_laneBody {f : LaneField} {body : Lane → Op Ret} {s : State} {Q : Ret → State → Prop}
    (hN : ∀ v, Q { code := .invalidChannel, value := v } s)
    (h : ∀ n, s.cfg.hasLane n = true → (body n).ensures F s Q) : (laneBody f body).ensures F s Q := by
  refine ensures_bind.mpr (ensures_params.mpr ?_)
  cases e : laneOf s.cfg f with
  | none => exact hN _
  | some n => exact h n (laneOf_hasLane e)

end Sys2Proof.Machine
end

section
/-! Started lanes are owned, and unowned transmit lanes have no buffer (10_state R44, R49 clause 1): every
instruction keeps that, and so does every run, between two commands. -/

namespace Sys2Proof.Machine

/-! ### The two facts about the tables -/

/-- A started lane is owned; a free transmit lane of which `q` holds has no buffer. -/
structure TablesOk (q : Lane → Prop) (s : State) : Prop where
  startedOwned : ∀ d n, (s.chan d n).run ≠ .idle → (s.chan d n).slot.isOwned = true
  freeNoBuffer : ∀ n, q n → (s.chan .tx n).slot = .free → s.txBuf[n.val] = 0

/-- What the lane agents never write decides it. -/
theorem TablesOk.congr {q : Lane → Prop} {s t : State} (h : TablesOk q s)
    (chan : ∀ d n, t.chan d n = s.chan d n) (txBuf : t.txBuf = s.txBuf) : TablesOk q t :=
  ⟨fun d n => by rw [chan]; exact h.startedOwned d n, fun n => by rw [chan, txBuf]; exact h.freeNoBuffer n⟩

theorem TablesOk.mono {q q' : Lane → Prop} {s : State} (h : TablesOk q s) (hq : ∀ n, q' n → q n) :
    TablesOk q' s := ⟨h.startedOwned, fun n hn => h.freeNoBuffer n (hq n hn)⟩

theorem TablesOk.boundary {q : Lane → Prop} {s : State} (h : TablesOk q s) : TablesOk q (boundary s) :=
  h.congr (fun _ _ => boundary_chan s _ _) (boundary_txBuf s)

theorem TablesOk.setChan {q : Lane → Prop} {s : State} (h : TablesOk q s) {d : Dir} {n : Lane} {c : Chan}
    (started : c.run ≠ .idle → c.slot.isOwned = true)
    (free : d = .tx → q n → c.slot = .free → s.txBuf[n.val] = 0) : TablesOk q (s.setChan d n c) := by
  refine ⟨fun e m => ?_, fun m hm => ?_⟩
  · rw [setChan_chan]
    split
    · exact started
    · exact h.startedOwned e m
  · rw [setChan_chan, setChan_txBuf]
    split
    · obtain ⟨hd, rfl⟩ := ‹_ ∧ _›
      exact free hd.symm hm
    · exact h.freeNoBuffer m hm

/-- A buffer that goes to 0. -/
theorem TablesOk.dropBuffer {q : Lane → Prop} {s : State} (h : TablesOk q s) (n : Lane) :
    TablesOk (fun m => q m ∨ m = n) (s.setTxBuf n 0) := by
  refine ⟨fun d m => ?_, fun m hm hfree => ?_⟩
  · simpa using h.startedOwned d m
  · show (s.txBuf.set n.val 0)[m.val] = 0
    rw [lane_set_get]
    split
    · rfl
    · exact h.freeNoBuffer m (hm.resolve_right ‹_›) (by simpa using hfree)

/-! ### Pieces that keep slots and buffers -/

/-- Slots and buffers stay, and a lane's run state stays or becomes `Idle`, unless the lane is one of `p`. -/
structure TablesKept (p : Dir → Lane → Prop) (s t : State) : Prop where
  cfg : t.cfg = s.cfg
  slot : ∀ d n, (t.chan d n).slot = (s.chan d n).slot
  run : ∀ d n, (t.chan d n).run = (s.chan d n).run ∨ (t.chan d n).run = .idle ∨ p d n
  txBuf : t.txBuf = s.txBuf

theorem TablesOk.of_kept {p : Dir → Lane → Prop} {q : Lane → Prop} {s t : State} (h : TablesOk q s)
    (k : TablesKept p s t) (hp : ∀ d n, p d n → (s.chan d n).slot.isOwned = true) : TablesOk q t := by
  refine ⟨fun d n hr => ?_, fun n hn hf => ?_⟩
  · rw [k.slot]
    obtain e | e | e := k.run d n
    · exact h.startedOwned d n (e ▸ hr)
    · exact absurd e hr
    · exact hp d n e
  · rw [k.txBuf]
    exact h.freeNoBuffer n hn (k.slot .tx n ▸ hf)

/-- No lane. -/
def noLane : Dir → Lane → Prop := fun _ _ => False

/-- This lane. -/
def onlyLane (d : Dir) (n : Lane) : Dir → Lane → Prop := fun e m => e = d ∧ m = n

section
variable {α β : Type} {p : Dir → Lane → Prop}

theorem tablesKept_same {s t : State} (cfg : t.cfg = s.cfg) (chan : ∀ d n, t.chan d n = s.chan d n)
    (txBuf : t.txBuf = s.txBuf) : TablesKept p s t :=
  ⟨cfg, fun d n => by rw [chan], fun d n => .inl (by rw [chan]), txBuf⟩

theorem TablesKept.trans {s t u : State} (h : TablesKept p s t) (k : TablesKept p t u) :
    TablesKept p s u where
  cfg := k.cfg.trans h.cfg
  slot d n := (k.slot d n).trans (h.slot d n)
  run d n := by
    obtain e | e | e := k.run d n
    · rw [e]; exact h.run d n
    · exact .inr (.inl e)
    · exact .inr (.inr e)
  txBuf := k.txBuf.trans h.txBuf

/-- Every micro-step of a piece keeps slots and buffers so. -/
abbrev Op.steady (p : Dir → Lane → Prop) (x : Op α) : Prop := ∀ c, x.each c (TablesKept p)

theorem steady_run {x : Op α} (h : x.steady p) {s t : State} {a : α} (e : x.run s = .ok a t) :
    TablesKept p s t := by
  have := each_run (h s.cfg) (fun u => tablesKept_same rfl (fun _ _ => rfl) rfl) TablesKept.trans
    (fun u => tablesKept_same (boundary_cfg u) (boundary_chan u) (boundary_txBuf u)) (fun k => k.cfg) s rfl
  rwa [e] at this

theorem steady_bind {x : Op α} {f : α → Op β} (h : x.steady p) (k : ∀ a, (f a).steady p) :
    (x.bind f).steady p := fun c => each_bind (h c) fun a => k a c

theorem steady_done (a : α) : (Op.done a).steady p := fun _ => trivial

theorem steady_update {f : State → State}
    (h : ∀ s, (f s).cfg = s.cfg ∧ (∀ d n, (f s).chan d n = s.chan d n) ∧ (f s).txBuf = s.txBuf) :
    (update f).steady p := fun _ =>
  ⟨fun s x t _ e => by cases e; exact tablesKept_same (h s).1 (h s).2.1 (h s).2.2, fun _ => trivial⟩

theorem steady_emit (e : Event) : (emit e).steady p :=
  steady_update fun _ => ⟨rfl, fun d _ => by cases d <;> rfl, rfl⟩

/-- A channel-table entry changes as long as its slot stays, and its run state too, unless it stops. -/
theorem steady_updateChan {d : Dir} {n : Lane} {f : Chan → Chan} (slot : ∀ c, (f c).slot = c.slot)
    (run : ∀ c, (f c).run = c.run ∨ (f c).run = .idle ∨ p d n) : (updateChan d n f).steady p := by
  refine fun _ => ⟨fun s x t _ e => ?_, fun _ => trivial⟩
  cases e
  refine ⟨by simp, fun e m => ?_, fun e m => ?_, by simp⟩
  · rw [setChan_chan]
    split
    · obtain ⟨rfl, rfl⟩ := ‹_ ∧ _›; exact slot _
    · rfl
  · rw [setChan_chan]
    split
    · obtain ⟨rfl, rfl⟩ := ‹_ ∧ _›; exact run _
    · exact .inl rfl

theorem steady_st32 (r : Reg) (v : Word) : (st32 r v).steady p := fun _ =>
  each_st32 fun _ _ _ h => by
    obtain ⟨kept, -, -, -, -, -, -, -, txBuf, chan⟩ := regWrite_kept h
    exact tablesKept_same kept.cfg chan txBuf

theorem steady_ld32 (r : Reg) : (ld32 r).steady p := fun _ =>
  ⟨fun s x t _ e => by
    cases e
    cases r <;> exact tablesKept_same rfl (fun d _ => by cases d <;> rfl) rfl, fun _ => trivial⟩

theorem steady_drawAccepted (k : Nat) : (drawAccepted k).steady p := fun _ =>
  ⟨fun s x t _ e => by cases e; exact tablesKept_same rfl (fun d _ => by cases d <;> rfl) rfl, fun _ => trivial⟩

theorem steady_readRing (d : Dir) (n : Lane) (mask start k : Nat) :
    ∀ j, (readRing d n mask start j k).steady p := by
  induction k with
  | zero => exact fun j => steady_done []
  | succ k ih =>
    refine fun j => steady_bind (fun c => each_mono readRingByte_same ?_) fun _ =>
      steady_bind (ih _) fun _ => steady_done _
    rintro s t rfl
    exact tablesKept_same rfl (fun _ _ => rfl) rfl

theorem steady_writeRing (d : Dir) (n : Lane) (mask : Nat) (data : List Byte) (start k : Nat) :
    ∀ j, (writeRing d n mask data start j k).steady p := by
  induction k with
  | zero => exact fun j => steady_done ()
  | succ k ih =>
    refine fun j => steady_bind (fun c => ⟨fun s x t _ e => ?_, fun _ => trivial⟩) fun _ => ih _
    simp only at e
    split at e
    · cases e; exact tablesKept_same rfl (fun _ _ => by simp) rfl
    · cases e

theorem steady_lookChan {d : Dir} {n : Lane} {f : Chan → Op β} (h : ∀ e, (f e).steady p) :
    ((lookChan d n).bind f).steady p := fun c => each_lookChan fun e => h e c

theorem steady_lookBuf {d : Dir} {n : Lane} {f : Word → Op β} (h : ∀ a, (f a).steady p) :
    ((lookBuf d n).bind f).steady p := fun c => each_lookBuf fun a => h a c

theorem steady_params {f : Params → Op β} (h : ∀ c, (f c).steady p) : (params.bind f).steady p :=
  fun c => each_params (h c c)

theorem steady_ite {b : Prop} [Decidable b] {x y : Op α} (hx : x.steady p) (hy : y.steady p) :
    (if b then x else y).steady p := by split <;> assumption

theorem steady_opWhen (b : Bool) {x : Op Unit} (h : x.steady p) : (opWhen b x).steady p :=
  fun c => each_opWhen fun _ => h c

theorem steady_forEach {ι : Type} (l : List ι) {f : ι → Op Unit} (h : ∀ a, (f a).steady p) :
    (forEach l f).steady p := fun c => each_forEach l fun a => h a c

theorem steady_faultIf (b : Bool) (r : Fault) : (faultIf b r).steady p := fun _ => each_faultIf b r

theorem steady_setEn (d : Dir) (n : Lane) : (setEn d n).steady p :=
  steady_params fun _ => steady_bind (steady_ld32 _) fun _ => steady_st32 _ _

theorem steady_clrEn (d : Dir) (n : Lane) : (clrEn d n).steady p :=
  steady_params fun _ => steady_bind (steady_ld32 _) fun _ => steady_st32 _ _

theorem steady_pulse (d : Dir) (n : Lane) : (pulse d n).steady p :=
  steady_bind (steady_st32 _ _) fun _ => steady_st32 _ _

theorem steady_zeroPointerRegs (n : Lane) (d : Dir) : (zeroPointerRegs n d).steady p := by
  cases d <;> exact steady_bind (steady_st32 _ _) fun _ => steady_st32 _ _

theorem steady_setWork (d : Dir) (n : Lane) : (setWork d n).steady p :=
  steady_updateChan (fun _ => rfl) fun _ => .inl rfl

theorem stoppedChan_slot (d : Dir) (c : Chan) : (stoppedChan d c).slot = c.slot := by cases d <;> rfl
theorem stoppedChan_run (d : Dir) (c : Chan) : (stoppedChan d c).run = c.run := by cases d <;> rfl

theorem steady_stopSequence (d : Dir) (n : Lane) : (stopSequence d n).steady p :=
  steady_bind (steady_clrEn d n) fun _ => steady_bind (steady_pulse d n) fun _ =>
    steady_bind (steady_zeroPointerRegs n d) fun _ => steady_lookBuf fun _ =>
      steady_bind (steady_st32 _ _) fun _ =>
        steady_bind (steady_updateChan (stoppedChan_slot d) fun e => .inl (stoppedChan_run d e)) fun _ =>
          steady_updateChan (fun _ => rfl) fun _ => .inr (.inl rfl)

theorem steady_emitOwned (d : Dir) (n : Lane) (e : Owner → Event) : (emitOwned d n e).steady p :=
  steady_lookChan fun entry => by
    cases entry.slot
    · exact steady_done ()
    · exact steady_emit _

theorem steady_corruptPath (d : Dir) (n : Lane) : (corruptPath d n).steady p :=
  steady_bind (steady_emit _) fun _ => steady_bind (steady_stopSequence d n) fun _ =>
    steady_bind (steady_emitOwned d n _) fun _ => steady_done _

theorem steady_recheck (d : Dir) (n : Lane) (v : Word) : (recheck d n v).steady p :=
  steady_bind (steady_ld32 _) fun _ => steady_opWhen _ (steady_setWork d n)

/-! ### The commands that keep slots and buffers -/

theorem steady_triggerIdleTx (n : Lane) : (triggerIdleTx n).steady (onlyLane .tx n) :=
  steady_lookChan fun _ => steady_bind (steady_pulse _ _) fun _ => steady_bind (steady_st32 _ _) fun _ =>
    steady_bind (steady_st32 _ _) fun _ => steady_bind (steady_setEn _ _) fun _ =>
      steady_updateChan (fun _ => rfl) fun _ => .inr (.inr ⟨rfl, rfl⟩)

theorem steady_triggerIdleRx (n : Lane) : (triggerIdleRx n).steady (onlyLane .rx n) :=
  steady_bind (steady_pulse _ _) fun _ => steady_bind (steady_st32 _ _) fun _ =>
    steady_bind (steady_st32 _ _) fun _ =>
      steady_bind (steady_updateChan (fun _ => rfl) fun _ => .inl rfl) fun _ =>
        steady_bind (steady_setEn _ _) fun _ =>
          steady_updateChan (fun _ => rfl) fun _ => .inr (.inr ⟨rfl, rfl⟩)

theorem steady_triggerOwned (d : Dir) (n : Lane) (r : RunState) :
    (triggerOwned d n r).steady (onlyLane d n) := by
  cases r
  · refine steady_bind ?_ fun _ => steady_done _
    cases d
    · exact steady_triggerIdleTx n
    · exact steady_triggerIdleRx n
  · exact steady_done _
  · exact steady_bind (steady_bind (steady_setEn _ _) fun _ =>
      steady_updateChan (fun _ => rfl) fun _ => .inr (.inr ⟨rfl, rfl⟩)) fun _ => steady_done _

theorem steady_stopBody (d : Dir) (n : Lane) : (stopBody d n).steady p :=
  steady_bind (steady_stopSequence d n) fun _ => steady_done _

theorem setSoftwareIndex_slot (d : Dir) (k : Nat) (c : Chan) : (setSoftwareIndex d k c).slot = c.slot := by
  cases d <;> rfl
theorem setSoftwareIndex_run (d : Dir) (k : Nat) (c : Chan) : (setSoftwareIndex d k c).run = c.run := by
  cases d <;> rfl

theorem steady_updswBody (d : Dir) (val : Word) (n : Lane) : (updswBody d val n).steady p :=
  steady_params fun _ => steady_lookChan fun _ => steady_ite (steady_done _) (steady_ite
    (steady_bind (steady_updateChan (setSoftwareIndex_slot d _) fun c => .inl (setSoftwareIndex_run d _ c))
      fun _ => steady_bind (steady_st32 _ _) fun _ => steady_done _) (steady_done _))

theorem steady_rdhwBody (d : Dir) (n : Lane) : (rdhwBody d n).steady p :=
  steady_params fun _ => steady_bind (steady_ld32 _) fun _ => steady_ite (steady_done _)
    (steady_corruptPath d n)

theorem steady_drainBytes (n : Lane) (mask tail avail : Nat) (h : Word) :
    (drainBytes n mask tail avail h).steady p :=
  steady_bind (steady_readRing _ _ _ _ _ _) fun _ => steady_bind (steady_drawAccepted _) fun _ =>
    steady_bind (steady_opWhen _ (steady_bind (steady_emitOwned _ _ _) fun _ => steady_emitOwned _ _ _))
      fun _ => steady_bind (steady_updateChan (fun _ => rfl) fun _ => .inl rfl) fun _ =>
        steady_bind (steady_st32 _ _) fun _ => steady_bind (steady_recheck _ _ _) fun _ => steady_done _

theorem steady_drainFrom (n : Lane) (mask tail : Nat) (h : Word) : (drainFrom n mask tail h).steady p :=
  steady_bind (steady_updateChan (fun _ => rfl) fun _ => .inl rfl) fun _ =>
    steady_ite (steady_done _) (steady_drainBytes _ _ _ _ _)

theorem steady_rxdrainBody (n : Lane) : (rxdrainBody n).steady p :=
  steady_lookChan fun _ => steady_ite (steady_done _) (steady_params fun _ =>
    steady_bind (steady_ld32 _) fun _ => steady_lookChan fun _ => steady_ite (steady_drainFrom _ _ _ _)
      (steady_corruptPath _ n))

theorem steady_refillBytes (c : Params) (n : Lane) (entry : Chan) (count k : Nat) (data : List Byte) :
    (refillBytes c n entry count k data).steady (onlyLane .tx n) :=
  steady_bind (steady_writeRing _ _ _ _ _ _ _) fun _ =>
    steady_bind (steady_updateChan (fun _ => rfl) fun _ => .inl rfl) fun _ =>
      steady_bind (steady_st32 _ _) fun _ => steady_bind (steady_opWhen _ (steady_triggerIdleTx n)) fun _ =>
        steady_bind (steady_opWhen _ (steady_emitOwned _ _ _)) fun _ =>
          steady_bind (steady_lookChan fun _ => steady_opWhen _ (steady_setWork _ n)) fun _ => steady_done _

theorem steady_completeTo (n : Lane) (r : Word) : (completeTo n r).steady p :=
  steady_bind (steady_updateChan (fun _ => rfl) fun _ => .inl rfl) fun _ =>
    steady_bind (steady_lookChan fun _ => steady_opWhen _ (steady_st32 _ _)) fun _ =>
      steady_bind (steady_recheck _ _ _) fun _ => steady_done _

theorem steady_txcompBody (n : Lane) : (txcompBody n).steady p :=
  steady_lookChan fun _ => steady_ite (steady_done _) (steady_params fun _ =>
    steady_bind (steady_ld32 _) fun _ => steady_lookChan fun _ => steady_ite (steady_completeTo n _)
      (steady_corruptPath _ n))

theorem steady_invokeCallback (d : Dir) (n : Lane) (v : Nat) : (invokeCallback d n v).steady p :=
  steady_lookChan fun entry => by
    cases entry.slot
    · exact steady_setWork d n
    · exact steady_bind (steady_emit _) fun _ => steady_setWork d n

theorem steady_completeArmed (d : Dir) (n : Lane) : (completeArmed d n).steady p :=
  steady_params fun _ => steady_bind (steady_ld32 _) fun _ => steady_ite (steady_invokeCallback _ _ _)
    (steady_bind (steady_corruptPath d n) fun _ => steady_done _)

theorem steady_defensive (d : Dir) (n : Lane) : (defensive d n).steady p :=
  steady_lookChan fun _ => steady_bind (steady_emit _) fun _ => steady_bind (steady_clrEn d n) fun _ =>
    steady_opWhen _ (steady_params fun _ => steady_bind (steady_ld32 _) fun _ =>
      steady_opWhen _ (steady_updateChan (fun _ => rfl) fun _ => .inl rfl))

theorem steady_serviceLane (d : Dir) (v : Word) (n : Lane) : (serviceLane d v n).steady p :=
  steady_opWhen _ (steady_bind (steady_st32 _ _) fun _ => steady_lookChan fun _ =>
    steady_ite (steady_completeArmed d n) (steady_defensive d n))

theorem steady_dispatchBody : dispatchBody.steady p :=
  steady_params fun _ => steady_bind (steady_ld32 _) fun _ => steady_bind (steady_ld32 _) fun _ =>
    steady_bind (steady_opWhen _ (steady_emit _)) fun _ => steady_bind (steady_opWhen _ (steady_emit _))
      fun _ => steady_ite (steady_bind (steady_emit _) fun _ => steady_done _)
        (steady_bind (steady_forEach _ (steady_serviceLane .tx _)) fun _ =>
          steady_bind (steady_forEach _ (steady_serviceLane .rx _)) fun _ => steady_done _)

theorem steady_attachChecks (c : Params) : (attachChecks c).steady p :=
  steady_bind (steady_forEach _ fun _ => steady_bind (steady_faultIf _ _) fun _ => steady_faultIf _ _)
    fun _ => steady_faultIf _ _

theorem steady_attachConfigure (c : Params) : (attachConfigure c).steady p := by
  unfold attachConfigure
  iterate 9 refine steady_bind (steady_st32 _ _) fun _ => ?_
  exact steady_st32 _ _

theorem steady_attachBase (c : Params) (n : Lane) : (attachBase c n).steady p :=
  steady_bind (steady_st32 _ _) fun _ => steady_st32 _ _

theorem steady_attachInterrupts (c : Params) : (attachInterrupts c).steady p := by
  unfold attachInterrupts
  iterate 3 refine steady_bind (steady_st32 _ _) fun _ => ?_
  exact steady_st32 _ _

end

end Sys2Proof.Machine
end

section
/-! The tables under every instruction and on every run (10_state R44, R47, R49 clause 1). -/

namespace Sys2Proof.Machine

variable {α β : Type}

/-! ### Each command's body -/

/-- Every lane. -/
def everyLane : Lane → Prop := fun _ => True

/-- Where the piece runs to its end, it leaves the tables as they should be, if they were so. -/
def Op.keepsTables (x : Op α) : Prop :=
  ∀ s, TablesOk everyLane s → x.ensures (fun _ => True) s fun _ => TablesOk everyLane

theorem ensures_steady {p : Dir → Lane → Prop} {q : Lane → Prop} {x : Op α} {s : State} (hx : x.steady p)
    (h : TablesOk q s) (hp : ∀ d n, p d n → (s.chan d n).slot.isOwned = true) :
    x.ensures (fun _ => True) s fun _ => TablesOk q :=
  ensures_of_all fun _ _ e => h.of_kept (steady_run hx e) hp

theorem ensures_steady_noLane {q : Lane → Prop} {x : Op α} {s : State} (hx : x.steady noLane)
    (h : TablesOk q s) : x.ensures (fun _ => True) s fun _ => TablesOk q :=
  ensures_steady hx h fun _ _ => False.elim

theorem keepsTables_steady {x : Op α} (h : x.steady noLane) : x.keepsTables :=
  fun _ ht => ensures_steady_noLane h ht

theorem keepsTables_bind {x : Op α} {f : α → Op β} (h : x.keepsTables) (k : ∀ a, (f a).keepsTables) :
    (x.bind f).keepsTables :=
  fun s ht => ensures_bind.mpr (ensures_mono (h s ht) fun a t => k a t)

theorem keepsTables_ite {p : Prop} [Decidable p] {x y : Op α} (h : x.keepsTables) (k : y.keepsTables) :
    (if p then x else y).keepsTables := by split <;> assumption

theorem keepsTables_done (a : α) : (Op.done a).keepsTables := fun _ ht => ht

theorem claimRx_keepsTables (owner : Owner) (cb : Callback) (n : Lane) :
    (claimRxBody owner cb n).keepsTables := by
  intro s h
  refine ensures_bind.mpr (ensures_params.mpr (ensures_bind.mpr (ensures_lookChan.mpr
    (ensures_ite (fun _ => h) fun _ => ensures_bind.mpr (ensures_updateChan.mpr ?_)))))
  exact h.boundary.setChan (fun _ => rfl) nofun

theorem claimTx_keepsTables (owner : Owner) (cb : Callback) (addr : Word) (n : Lane) :
    (claimTxBody owner cb addr n).keepsTables := by
  intro s h
  refine ensures_bind.mpr (ensures_params.mpr (ensures_bind.mpr (ensures_lookChan.mpr
    (ensures_ite (fun _ => h) fun _ => ?_))))
  refine ensures_bind.mpr (ensures_faultIf (fun _ => trivial) fun _ => ensures_bind.mpr
    (ensures_lookFits.mpr (ensures_bind.mpr (ensures_faultIf (fun _ => trivial) fun _ => ?_))))
  refine ensures_bind.mpr (ensures_mono (ensures_steady_noLane (steady_st32 _ _) h) fun _ u hu => ?_)
  refine ensures_bind.mpr (ensures_update.mpr (ensures_bind.mpr (ensures_updateChan.mpr ?_)))
  refine ⟨fun e m => ?_, fun m _ => ?_⟩
  · rw [setChan_chan]
    split
    · exact fun _ => rfl
    · simpa using hu.startedOwned e m
  · rw [setChan_chan]
    split
    · exact nofun
    · rename_i hm
      have hm : m ≠ n := fun e => hm ⟨rfl, e⟩
      simpa [lane_set_other _ _ hm] using hu.freeNoBuffer m trivial

theorem trigger_keepsTables (d : Dir) (n : Lane) : (triggerBody d n).keepsTables := by
  intro s h
  refine ensures_bind.mpr (ensures_lookChan.mpr (ensures_ite (fun howned => ?_) fun _ => h))
  exact ensures_steady (steady_triggerOwned d n _) h fun e m ⟨he, hm⟩ => by rw [he, hm]; exact howned

theorem pause_keepsTables (d : Dir) (n : Lane) : (pauseBody d n).keepsTables := by
  intro s h
  refine ensures_bind.mpr (ensures_lookChan.mpr (ensures_ite (fun hrun => ?_) fun _ => h))
  have howned := h.startedOwned d n (by rw [hrun]; nofun)
  have hsteady : ((clrEn d n).bind fun _ => (setRun d n .paused).bind fun _ => Op.done okRet).steady
      (onlyLane d n) := steady_bind (steady_clrEn d n) fun _ =>
    steady_bind (steady_updateChan (fun _ => rfl) fun _ => .inr (.inr ⟨rfl, rfl⟩)) fun _ => steady_done _
  exact ensures_steady hsteady h fun e m ⟨he, hm⟩ => by rw [he, hm]; exact howned

theorem txprod_keepsTables (count : Nat) (data : List Byte) (n : Lane) :
    (txprodBody count data n).keepsTables := by
  intro s h
  refine ensures_bind.mpr (ensures_params.mpr (ensures_bind.mpr (ensures_lookChan.mpr
    (ensures_ite (fun howned => ?_) fun _ => h))))
  exact ensures_steady (steady_refillBytes _ n _ _ _ _) h fun e m ⟨he, hm⟩ => by rw [he, hm]; exact howned

theorem workTx_keepsTables (n : Lane) : (workTx n).keepsTables := by
  have draw : drawStream.keepsTables := fun s h => ensures_of_run (drawStream_run s)
    (h.boundary.congr (fun d _ => by cases d <;> rfl) rfl)
  have refill : (workRefill n).keepsTables := keepsTables_bind draw fun offer =>
    fun s h => ensures_bind.mpr (ensures_lookChan.mpr (keepsTables_ite
      (keepsTables_bind (txprod_keepsTables _ _ n) fun _ => keepsTables_done _) (keepsTables_done _) s h))
  exact keepsTables_bind (keepsTables_steady (steady_txcompBody n)) fun _ =>
    keepsTables_ite (keepsTables_done _) refill

theorem work_keepsTables (d : Dir) (n : Lane) : (workBody d n).keepsTables := by
  have clear : (updateChan d n fun c => { c with work := false }).keepsTables :=
    keepsTables_steady (steady_updateChan (fun _ => rfl) fun _ => .inl rfl)
  have job : (workJob n d).keepsTables := by
    cases d
    · exact workTx_keepsTables n
    · exact keepsTables_steady (steady_rxdrainBody n)
  exact fun s h => ensures_bind.mpr (ensures_lookChan.mpr
    (keepsTables_ite (keepsTables_bind clear fun _ => job) (keepsTables_done _) s h))

/-! ### RELEASE, DETACH and ATTACH, which free lanes -/

/-- After the STOP sequence the lane is `Idle`. -/
theorem stopSequence_idle {d : Dir} {n : Lane} {s t : State} (h : (stopSequence d n).run s = .ok () t) :
    (t.chan d n).run = .idle := by
  simp only [stopSequence, op_bind, run_bind_ok, updateChan_run, EStateM.Result.ok.injEq, true_and] at h
  obtain ⟨_, _, -, _, _, -, _, _, -, _, _, -, _, _, -, _, _, -, rfl⟩ := h
  simp

/-- The STOP sequence keeps the tables and leaves the lane `Idle`. -/
theorem stopSequence_ensures {q : Lane → Prop} {s : State} (d : Dir) (n : Lane) (h : TablesOk q s) :
    (stopSequence d n).ensures (fun _ => True) s fun _ t => TablesOk q t ∧ (t.chan d n).run = .idle :=
  ensures_and_run (ensures_steady_noLane (steady_stopSequence d n) h) fun _ _ e ht => ⟨ht, stopSequence_idle e⟩

/-- A transmit lane's base and buffer go to 0; an `Idle` lane stays so. -/
theorem dropTxBuffer_ensures {q : Lane → Prop} {s : State} (n : Lane) (h : TablesOk q s) :
    (dropTxBuffer n).ensures (fun _ => True) s fun _ t =>
      TablesOk (fun m => q m ∨ m = n) t ∧ t.txBuf[n.val] = 0 ∧
        ((s.chan .tx n).run = .idle → (t.chan .tx n).run = .idle) := by
  refine ensures_bind.mpr (ensures_and_run (ensures_steady_noLane (steady_st32 _ _) h) fun _ u e hu => ?_)
  refine ensures_update.mpr ⟨hu.boundary.dropBuffer n, by simp, fun hidle => ?_⟩
  obtain hrun | hrun | hrun := (steady_run (p := noLane) (steady_st32 _ _) e).run .tx n
  · simpa [hrun] using hidle
  · simpa using hrun
  · exact hrun.elim

/-- RELEASE frees an `Idle` lane whose buffer, on a transmit lane, is 0 (R203). -/
theorem release_keepsTables (d : Dir) (n : Lane) : (releaseBody d n).keepsTables := by
  intro s h
  refine ensures_bind.mpr (ensures_lookChan.mpr (ensures_ite (fun _ => ?_) fun _ => h))
  refine ensures_bind.mpr (ensures_mono (stopSequence_ensures d n h) fun _ t ⟨ht, hidle⟩ => ?_)
  have freed : ∀ u : State, TablesOk everyLane u → (u.chan d n).run = .idle →
      (d = .tx → u.txBuf[n.val] = 0) → TablesOk everyLane
        ((boundary u).setChan d n (freedChan (u.chan d n))) := fun u hu hrun hbuf =>
    hu.boundary.setChan (fun hr => absurd hrun hr) fun hd _ _ => by simpa using hbuf hd
  cases d with
  | rx =>
    refine ensures_bind.mpr (ensures_done.mpr (ensures_bind.mpr (ensures_updateChan.mpr ?_)))
    exact freed t ht hidle nofun
  | tx =>
    refine ensures_bind.mpr (ensures_mono (dropTxBuffer_ensures n ht) fun _ u ⟨hu, hbuf, hrun⟩ => ?_)
    refine ensures_bind.mpr (ensures_updateChan.mpr ?_)
    exact freed u (hu.mono fun _ => .inl) (hrun hidle) fun _ => hbuf

/-- The lane numbers that belong to no lane. -/
def outside (c : Params) : Lane → Prop := fun n => c.hasLane n = false

/-- While the existing transmit lanes' buffers are dropped one by one (R192, R193). -/
theorem forEach_dropped {c : Params} {f : Lane → Op Unit} {s : State} (h : TablesOk (outside c) s)
    (hf : ∀ n (q : Lane → Prop) t, TablesOk q t →
      (f n).ensures (fun _ => True) t fun _ => TablesOk fun m => q m ∨ m = n) :
    (forEach c.lanes f).ensures (fun _ => True) s fun _ => TablesOk everyLane := by
  refine ensures_mono (ensures_forEach (fun dropped => TablesOk fun m => outside c m ∨ m ∈ dropped) c.lanes []
    s (h.mono fun m hm => hm.resolve_right List.not_mem_nil) fun n _ dropped t ht => ?_) fun _ t ht => ?_
  · exact ensures_mono (hf n _ t ht) fun _ u hu => hu.mono fun m hm => by
      simpa [or_assoc] using hm
  · refine ht.mono fun m _ => ?_
    simp only [outside, List.nil_append, mem_lanes]
    cases c.hasLane m <;> simp

theorem detachLane_ensures {c : Params} {s : State} {d : Dir} {n : Lane} (hn : c.hasLane n = true)
    (h : TablesOk (outside c) s) :
    (detachLane d n).ensures (fun _ => True) s fun _ => TablesOk (outside c) := by
  refine ensures_bind.mpr (ensures_mono (stopSequence_ensures d n h) fun _ t ⟨ht, hidle⟩ => ?_)
  refine ensures_updateChan.mpr (ht.boundary.setChan (fun hr => absurd hidle hr) fun _ hq => ?_)
  rw [outside, hn] at hq
  cases hq

theorem detach_keepsTables : detachBody.keepsTables := by
  intro s h
  refine ensures_bind.mpr (ensures_params.mpr ?_)
  have stop : ∀ d (t : State), TablesOk (outside s.cfg) t →
      (forEach s.cfg.lanes (detachLane d)).ensures (fun _ => True) t fun _ => TablesOk (outside s.cfg) :=
    fun d t ht => ensures_forEach_keep ht fun n hn u hu => detachLane_ensures (mem_lanes.mp hn) hu
  refine ensures_bind.mpr (ensures_mono (stop .tx s (h.mono fun _ _ => trivial)) fun _ t1 h1 => ?_)
  refine ensures_bind.mpr (ensures_mono (stop .rx t1 h1) fun _ t2 h2 => ?_)
  refine ensures_bind.mpr (ensures_mono (forEach_dropped h2 fun n q t ht =>
    ensures_mono (dropTxBuffer_ensures n ht) fun _ _ hu => hu.1) fun _ t3 h3 => ?_)
  refine ensures_steady_noLane (steady_bind (steady_st32 _ _) fun _ => steady_bind (steady_st32 _ _) fun _ =>
    steady_bind (steady_update fun _ => ?_) fun _ => steady_done _) h3
  exact ⟨rfl, fun d _ => by cases d <;> rfl, rfl⟩

theorem attach_keepsTables : attachBody.keepsTables := by
  intro s h
  refine ensures_bind.mpr (ensures_params.mpr (ensures_bind.mpr (ensures_lookAttached.mpr (ensures_bind.mpr
    (ensures_faultIf (fun _ => trivial) fun _ => ?_)))))
  refine ensures_bind.mpr (ensures_mono (ensures_steady_noLane (steady_attachChecks _) h) fun _ t1 h1 => ?_)
  refine ensures_bind.mpr (ensures_mono (ensures_steady_noLane (steady_attachConfigure _) h1) fun _ t2 h2 => ?_)
  refine ensures_bind.mpr (ensures_mono (ensures_steady_noLane (steady_forEach _ (steady_attachBase _)) h2)
    fun _ t3 h3 => ?_)
  refine ensures_bind.mpr (ensures_mono (ensures_steady_noLane (steady_attachInterrupts _) h3) fun _ t4 h4 => ?_)
  have clear : ∀ d (t : State), TablesOk (outside s.cfg) t →
      (forEach s.cfg.lanes (clearEntry d)).ensures (fun _ => True) t fun _ => TablesOk (outside s.cfg) :=
    fun d t ht => ensures_forEach_keep ht fun n hn u hu => ensures_updateChan.mpr
      (hu.boundary.setChan nofun fun _ hq => by rw [outside, mem_lanes.mp hn] at hq; cases hq)
  refine ensures_bind.mpr (ensures_bind.mpr (ensures_mono (clear .tx t4 (h4.mono fun _ _ => trivial))
    fun _ t5 h5 => ?_))
  refine ensures_bind.mpr (ensures_mono (clear .rx t5 h5) fun _ t6 h6 => ?_)
  refine ensures_bind.mpr (ensures_mono (forEach_dropped h6 fun n q t ht =>
    ensures_update.mpr (ht.boundary.dropBuffer n)) fun _ t7 h7 => ?_)
  exact ensures_update.mpr (h7.boundary.congr (fun d _ => by cases d <;> rfl) rfl)

/-! ### Instructions -/

/-- Every command is a body that keeps the tables, and its `Result`. -/
theorem commandOf_keepsTables {i : Instr} {x : Op Unit} (h : commandOf i = some x) :
    ∃ body : Op Ret, body.keepsTables ∧ x = commandProgram i body := by
  have attached : ∀ {body : Op Ret}, body.keepsTables → ∃ b : Op Ret, b.keepsTables ∧
      attachedProgram i body = commandProgram i b :=
    fun hb => ⟨_, fun s hs => ensures_attachedOnly trivial fun _ => hb s hs, rfl⟩
  have lane : ∀ (f : LaneField) {body : Lane → Op Ret}, (∀ n, (body n).keepsTables) → ∃ b : Op Ret,
      b.keepsTables ∧ laneProgram i f body = commandProgram i b := fun f _ hb =>
    attached fun s hs => ensures_laneBody (fun _ => hs) fun n _ => hb n s hs
  cases i <;> simp only [commandOf, Option.some.injEq, reduceCtorEq] at h <;> subst h
  case attach => exact ⟨_, attach_keepsTables, rfl⟩
  case detach => exact attached detach_keepsTables
  case claimTx f owner cb addr => exact lane f (claimTx_keepsTables owner cb addr)
  case claimRx f owner cb => exact lane f (claimRx_keepsTables owner cb)
  case trigger d f => exact lane f (trigger_keepsTables d)
  case stop d f => exact lane f fun n => keepsTables_steady (steady_stopBody d n)
  case pause d f => exact lane f (pause_keepsTables d)
  case release d f => exact lane f (release_keepsTables d)
  case updsw d f val => exact lane f fun n => keepsTables_steady (steady_updswBody d val n)
  case rdhw d f => exact lane f fun n => keepsTables_steady (steady_rdhwBody d n)
  case dispatch => exact attached (keepsTables_steady steady_dispatchBody)
  case rxdrain f => exact lane f fun n => keepsTables_steady (steady_rxdrainBody n)
  case txprod f count data => exact lane f (txprod_keepsTables count data)
  case txcomp f => exact lane f fun n => keepsTables_steady (steady_txcompBody n)
  case work d f => exact lane f (work_keepsTables d)

theorem CoreInv.tables {s : State} (h : CoreInv s) : TablesOk everyLane s :=
  ⟨h.startedOwned, fun n _ => h.freeNoBuffer n⟩

theorem CoreParts.coreInv {s : State} (h : CoreParts s) (hc : s.cur = none) (ht : TablesOk everyLane s) :
    CoreInv s := ⟨h, hc, ht.startedOwned, fun n => ht.freeNoBuffer n trivial⟩

/-- Lane agents change neither tables nor buffers (R160). -/
theorem LaneFrame.coreInv {s t : State} (h : LaneFrame s t) (hs : CoreInv s) : CoreInv t :=
  (h.coreParts hs.parts).coreInv (h.cur.trans hs.noCommand) (hs.tables.congr h.chan h.txBuf)

/-- Every instruction, a command or a direct register access, keeps the invariant between commands. -/
theorem exec_coreInv {i : Instr} {s t : State} (hs : CoreInv s) (h : exec i s = .next t) : CoreInv t := by
  have parts : CoreParts t := coreParts_stepClosed.exec h hs.parts
  cases hx : commandOf i with
  | some x =>
    obtain ⟨body, hb, rfl⟩ := commandOf_keepsTables hx
    rw [exec_command hx] at h
    have begun : TablesOk everyLane (beginCommand i s) :=
      hs.tables.congr (fun _ _ => beginCommand_chan i s _ _) rfl
    obtain ⟨r, u, hu, rfl⟩ := (runCommand_ensures (hb _ begun)).1 t h
    exact parts.coreInv rfl (hu.congr (by simp) (by simp))
  | none =>
    obtain ⟨r, e⟩ | ⟨r, v, e⟩ := exec_direct hx
    · rw [e] at h
      cases h
      refine parts.coreInv ?_ (hs.tables.boundary.congr (fun d n => ?_) ?_)
      · cases r <;> simp [afterRead, boundary_cur, hs.noCommand]
      · cases r <;> cases d <;> rfl
      · cases r <;> rfl
    · rw [e] at h
      obtain ⟨-, -, -, -, -, hcur, -, -, htxBuf, hchan⟩ := regWrite_kept (directWrite_next h)
      exact parts.coreInv (by rw [hcur, boundary_cur, hs.noCommand]; rfl)
        (hs.tables.boundary.congr hchan htxBuf)

/-! ### Runs -/

theorem CoreInv.withBooks {s : State} (h : CoreInv s) (q : List Datum) (i : List Packet)
    (l : List (List LaneStep)) (r : Option Word) : CoreInv (s.withBooks s.cur q i l r) :=
  (coreParts_stepClosed.books s s.cur q i l r h.parts).coreInv h.noCommand
    (h.tables.congr (fun d _ => by cases d <;> rfl) rfl)

/-- In the middle of a command that ends, if it does, in a state that meets the invariant between commands. -/
def Interrupted (s : State) : Prop := ∃ i o, MidCommand i o s ∧ ∀ t, o = .next t → CoreInv t

theorem startInstruction_keeps {i : Instr} {s t : State} (hs : CoreInv s) (hf : s.faulted = none)
    (hr : s.refused = false) (ha : s.pace = .atomic) (h : startInstruction i s = .next t) :
    CoreInv t ∨ Interrupted t := by
  obtain e | ⟨u, hu, hmid, -⟩ := startInstruction_reaches (i := i) hf hr ha
  · exact .inl (exec_coreInv hs (e ▸ h))
  · rw [hu] at h
    cases h
    exact .inr ⟨i, _, hmid, fun v hv => exec_coreInv hs hv⟩

/-- A step between two commands. -/
theorem CoreInv.step {s t : State} (hs : CoreInv s) (h : step s = .next t) : CoreInv t ∨ Interrupted t := by
  obtain ⟨hf, hr, -⟩ := step_next_unmarked h
  have hc := hs.noCommand
  cases hm : controlMoves s with
  | false =>
    obtain ⟨hp, l, ls, rest, hsched⟩ := controlMoves_eq_false hm
    rw [step_lane hf hr hp hsched] at h
    cases h
    exact .inl ((laneStep_frame _ l).coreInv (hs.withBooks s.seen s.inbox (ls :: rest) s.readData))
  | true =>
    cases hi : s.inbox with
    | nil =>
      rw [step_idle hf hr hi hc hm] at h
      cases h
      exact .inl ((interleave_frame s).coreInv hs)
    | cons p rest =>
      have taken : CoreInv { s with inbox := rest } := hs.withBooks s.seen rest s.sched s.readData
      cases hp : s.pace with
      | command =>
        rw [step_command hf hr hp, commandStep_packet hc hi] at h
        obtain ⟨i, -, e⟩ := takePacket_next h
        exact .inl (exec_coreInv taken e)
      | atomic =>
        rw [step_control hf hr hp hm, controlTurn_packet hc hi] at h
        obtain ⟨i, -, e⟩ := takePacket_next h
        exact startInstruction_keeps taken hf hr hp e

/-- A step in the middle of a command. -/
theorem Interrupted.step {s t : State} (hs : Interrupted s) (h : step s = .next t) :
    CoreInv t ∨ Interrupted t := by
  obtain ⟨i, o, hmid, ho⟩ := hs
  obtain e | e := hmid.step h
  · exact .inl (ho t e)
  · exact .inr ⟨i, o, e, ho⟩

theorem run_keeps (k : Nat) : ∀ {s t : State}, CoreInv s ∨ Interrupted s →
    Host.Core.run Sys2Proof.core k s = .next t → CoreInv t ∨ Interrupted t := by
  induction k with
  | zero => intro s t hs h; cases h; exact hs
  | succ k ih =>
    intro s t hs h
    simp only [Host.Core.run] at h
    split at h
    · rename_i u hu
      exact ih (hs.elim (fun hs => hs.step hu) fun hs => hs.step hu) h
    · cases h
    · cases h

theorem run_coreParts (k : Nat) : ∀ {s t : State}, CoreParts s →
    Host.Core.run Sys2Proof.core k s = .next t → CoreParts t := by
  induction k with
  | zero => intro s t hs h; cases h; exact hs
  | succ k ih =>
    intro s t hs h
    simp only [Host.Core.run] at h
    split at h
    · rename_i u hu
      exact ih (stepKeepsInvariant s u hs hu) h
    · cases h
    · cases h

/-- Settles O55: between two commands the tables are as they should be, and in the middle of one they will be at
its end, since that is the end it has in one piece. -/
theorem runsKeepInvariant : Obligations.RunsKeepInvariant := by
  intro k s t hs h
  refine ⟨run_coreParts k hs.parts h, fun hc => ?_⟩
  obtain ht | ⟨i, o, hmid, -⟩ := run_keeps k (.inl hs) h
  · exact ht
  · obtain ⟨j, hj⟩ := hmid.running
    rw [hj] at hc
    cases hc

end Sys2Proof.Machine
end

section
/-! What the invariants of 10_state R49 look at, lane by lane, and how the updates of a command change it. -/

namespace Sys2Proof.Machine

/-! ### One lane as the invariants see it -/

/-- A lane's channel-table entry, its bits of the enable and reset registers, its software pointer, its base
and its buffer. -/
structure LaneView where
  chan : Chan
  enabled : Bool
  inReset : Bool
  sw : Word
  base : Word
  buf : Word

/-- Lane `(d, n)` as the invariants see it. -/
def laneView (s : State) (d : Dir) (n : Lane) : LaneView where
  chan := s.chan d n
  enabled := laneEnabled s d n
  inReset := laneInReset s d n
  sw := (s.bank d).sw[n.val]
  base := (s.bank d).base[n.val]
  buf := s.buf d n

/-- `LaneDisciplined`, of a view. -/
structure LaneView.Disciplined (c : Params) (d : Dir) (v : LaneView) : Prop where
  armedIffEnabled : v.chan.run = .armed ↔ v.enabled = true
  notInReset : v.inReset = false
  published : v.chan.run ≠ .idle → v.sw = toWord (softwareIndex d v.chan)
  baseIsBuffer : v.base = v.buf
  bufferAligned : aligned c v.buf = true
  bufferBelowTop : v.chan.slot.isOwned = true → belowTop c d v.buf = true

theorem laneDisciplined_iff {s : State} {d : Dir} {n : Lane} :
    LaneDisciplined s d n ↔ (laneView s d n).Disciplined s.cfg d :=
  ⟨fun ⟨a, b, c, e, f, g⟩ => ⟨a, b, c, e, f, g⟩, fun ⟨a, b, c, e, f, g⟩ => ⟨a, b, c, e, f, g⟩⟩

theorem laneView_congr {s t : State} (h : controlPart t = controlPart s) (d : Dir) (n : Lane) :
    laneView t d n = laneView s d n := by
  simp only [laneView, control_chan h, control_laneEnabled h, control_laneInReset h, control_sw h,
    control_base h, control_buf h]

/-! ### The view after an update -/

section
variable (s : State) (d e : Dir) (n m : Lane)

theorem laneView_withEn (v : Word) : laneView (s.withEn d v) e m =
    if e = d then { laneView s e m with enabled := testLane v m } else laneView s e m := by
  cases d <;> cases e <;> rfl

theorem laneView_withRst (v : Word) : laneView (s.withRst d v) e m =
    if e = d then { laneView s e m with inReset := testLane v m } else laneView s e m := by
  cases d <;> cases e <;> rfl

@[simp] theorem laneView_withHw (v : Word) : laneView (s.withHw d n v) e m = laneView s e m := by
  cases d <;> cases e <;> rfl

theorem laneView_withSw (v : Word) : laneView (s.withSw d n v) e m =
    if e = d ∧ m = n then { laneView s e m with sw := v } else laneView s e m := by
  by_cases h : m = n
  · subst h
    cases d <;> cases e <;>
      simp [laneView, State.withSw, State.setBank, State.bank, Bank.setSw, laneEnabled, laneInReset,
        State.chan, State.buf]
  · cases d <;> cases e <;>
      simp [h, laneView, State.withSw, State.setBank, State.bank, Bank.setSw, laneEnabled, laneInReset,
        State.chan, State.buf, lane_set_other]

theorem laneView_withBase (v : Word) : laneView (s.withBase d n v) e m =
    if e = d ∧ m = n then { laneView s e m with base := v } else laneView s e m := by
  by_cases h : m = n
  · subst h
    cases d <;> cases e <;>
      simp [laneView, State.withBase, State.setBank, State.bank, Bank.setBase, laneEnabled, laneInReset,
        State.chan, State.buf]
  · cases d <;> cases e <;>
      simp [h, laneView, State.withBase, State.setBank, State.bank, Bank.setBase, laneEnabled, laneInReset,
        State.chan, State.buf, lane_set_other]

@[simp] theorem laneView_withStill : laneView (s.withStill d n) e m = laneView s e m := by
  cases d <;> cases e <;> rfl

theorem laneView_setChan (c : Chan) : laneView (s.setChan d n c) e m =
    if e = d ∧ m = n then { laneView s e m with chan := c } else laneView s e m := by
  simp only [laneView, setChan_chan, laneEnabled_setChan, laneInReset_setChan, setChan_bank, setChan_buf]
  split <;> rfl

theorem laneView_setTxBuf (v : Word) : laneView (s.setTxBuf n v) e m =
    if e = .tx ∧ m = n then { laneView s e m with buf := v } else laneView s e m := by
  have hbuf : (s.setTxBuf n v).buf e m = if e = .tx ∧ m = n then v else s.buf e m := by
    cases e <;> simp [State.buf, lane_set_get]
  simp only [laneView, hbuf, setTxBuf_chan, setTxBuf_bank, laneEnabled, laneInReset]
  split <;> rfl

end

/-! ### The invariants of R49 beyond `CoreInv` -/

/-- What `CommandInv` asks beyond `CoreInv`. -/
structure Disciplined (s : State) : Prop where
  lane : ∀ d n, s.cfg.hasLane n = true → (laneView s d n).Disciplined s.cfg d
  ringsOk : receiveRingsOk s.cfg = true
  txRings : TxRingsDisjoint s
  interruptsOn : s.attached = true → ∀ d, (s.bank d).ier = laneMask s.cfg
  configured : s.bufSz = s.cfg.sizeClass ∧ s.rxTimeout = s.cfg.timeoutValue

theorem commandInv_iff {s : State} : CommandInv s ↔ CoreInv s ∧ Disciplined s := by
  constructor
  · rintro ⟨core, lane, ringsOk, txRings, interruptsOn, configured⟩
    refine ⟨core, fun d n hn => laneDisciplined_iff.mp (lane d n hn), ringsOk, txRings, fun ha d => ?_, configured⟩
    obtain ⟨htx, hrx⟩ := interruptsOn ha
    cases d
    · exact htx
    · exact hrx
  · rintro ⟨core, lane, ringsOk, txRings, interruptsOn, configured⟩
    exact ⟨core, fun d n hn => laneDisciplined_iff.mpr (lane d n hn), ringsOk, txRings,
      fun ha => ⟨interruptsOn ha .tx, interruptsOn ha .rx⟩, configured⟩

/-- The owned transmit rings stay disjoint where no lane becomes owned and owned lanes keep their buffers. -/
theorem TxRingsDisjoint.mono {s t : State} (h : TxRingsDisjoint s) (cfg : t.cfg = s.cfg)
    (kept : ∀ n, s.cfg.hasLane n = true → (t.chan .tx n).slot.isOwned = true →
      (s.chan .tx n).slot.isOwned = true ∧ t.txBuf[n.val] = s.txBuf[n.val]) : TxRingsDisjoint t := by
  intro n hn ho
  rw [cfg] at hn ⊢
  obtain ⟨ho', hb⟩ := kept n hn ho
  obtain ⟨fixed, others⟩ := h n hn ho'
  refine ⟨by rw [hb]; exact fixed, fun m hm hne hom => ?_⟩
  obtain ⟨hom', hbm⟩ := kept m hm hom
  rw [hb, hbm]
  exact others m hm hne hom'

/-- `t` differs from `s`, in what the invariants look at, at lane `(d, n)` only. -/
structure Elsewhere (d : Dir) (n : Lane) (s t : State) : Prop where
  cfg : t.cfg = s.cfg
  attached : t.attached = s.attached
  bufSz : t.bufSz = s.bufSz
  rxTimeout : t.rxTimeout = s.rxTimeout
  ier : ∀ e, (t.bank e).ier = (s.bank e).ier
  view : ∀ e m, s.cfg.hasLane m = true → ¬(e = d ∧ m = n) → laneView t e m = laneView s e m

theorem Elsewhere.trans {d : Dir} {n : Lane} {s t u : State} (h : Elsewhere d n s t)
    (k : Elsewhere d n t u) : Elsewhere d n s u where
  cfg := k.cfg.trans h.cfg
  attached := k.attached.trans h.attached
  bufSz := k.bufSz.trans h.bufSz
  rxTimeout := k.rxTimeout.trans h.rxTimeout
  ier e := (k.ier e).trans (h.ier e)
  view e m hm hne := (k.view e m (by rw [h.cfg]; exact hm) hne).trans (h.view e m hm hne)

theorem Elsewhere.of_control {d : Dir} {n : Lane} {s t : State} (h : controlPart t = controlPart s) :
    Elsewhere d n s t :=
  ⟨control_cfg h, control_attached h, control_bufSz h, control_rxTimeout h, control_ier h,
    fun e m _ _ => laneView_congr h e m⟩

/-- A change at one lane that leaves that lane disciplined, where the transmit rings are still disjoint. -/
theorem Disciplined.of_elsewhere {d : Dir} {n : Lane} {s t : State} (h : Disciplined s)
    (k : Elsewhere d n s t) (lane : (laneView t d n).Disciplined s.cfg d) (txRings : TxRingsDisjoint t) :
    Disciplined t where
  lane e m hm := by
    rw [k.cfg] at hm ⊢
    by_cases he : e = d ∧ m = n
    · obtain ⟨rfl, rfl⟩ := he
      exact lane
    · rw [k.view e m hm he]
      exact h.lane e m hm
  ringsOk := by rw [k.cfg]; exact h.ringsOk
  txRings := txRings
  interruptsOn ha e := by rw [k.ier, k.cfg]; exact h.interruptsOn (k.attached ▸ ha) e
  configured := by rw [k.bufSz, k.rxTimeout, k.cfg]; exact h.configured

/-- A change at one lane that keeps the slot and the buffer too. -/
theorem Disciplined.of_elsewhere_kept {d : Dir} {n : Lane} {s t : State} (h : Disciplined s)
    (k : Elsewhere d n s t) (lane : (laneView t d n).Disciplined s.cfg d)
    (slot : (t.chan d n).slot = (s.chan d n).slot) (buf : t.buf d n = s.buf d n) : Disciplined t := by
  refine h.of_elsewhere k lane (h.txRings.mono k.cfg fun m hm ho => ?_)
  by_cases he : .tx = d ∧ m = n
  · obtain ⟨rfl, rfl⟩ := he
    exact ⟨slot ▸ ho, buf⟩
  · have hv := k.view .tx m hm he
    have hc : t.chan .tx m = s.chan .tx m := congrArg LaneView.chan hv
    exact ⟨hc ▸ ho, congrArg LaneView.buf hv⟩

theorem Disciplined.congr {s t : State} (h : Disciplined s) (e : controlPart t = controlPart s) :
    Disciplined t where
  lane d n hn := by
    rw [control_cfg e] at hn ⊢
    rw [laneView_congr e]
    exact h.lane d n hn
  ringsOk := by rw [control_cfg e]; exact h.ringsOk
  txRings := h.txRings.mono (control_cfg e) fun n _ ho => by
    rw [control_chan e] at ho
    exact ⟨ho, by rw [control_txBuf e]⟩
  interruptsOn ha d := by
    rw [control_ier e, control_cfg e]
    exact h.interruptsOn (control_attached e ▸ ha) d
  configured := by rw [control_bufSz e, control_rxTimeout e, control_cfg e]; exact h.configured

/-! ### Updates at one lane -/

section
variable (s : State) (d : Dir) (n : Lane)

/-- An update of one direction's registers that keeps the interrupt enables. -/
theorem elsewhere_setBank {b : Bank} (ier : b.ier = (s.bank d).ier)
    (view : ∀ m, s.cfg.hasLane m = true → m ≠ n → laneView (s.setBank d b) d m = laneView s d m) :
    Elsewhere d n s (s.setBank d b) where
  cfg := setBank_cfg s d b
  attached := setBank_attached s d b
  bufSz := setBank_bufSz s d b
  rxTimeout := setBank_rxTimeout s d b
  ier e := by
    by_cases he : e = d
    · rw [he, setBank_bank, ier]
    · rw [setBank_bank_other s b he]
  view e m hm hne := by
    by_cases he : e = d
    · subst he
      exact view m hm fun h => hne ⟨rfl, h⟩
    · simp only [laneView, setBank_chan, setBank_buf, laneEnabled, laneInReset, setBank_bank_other s b he]

theorem elsewhere_withEn {v : Word}
    (h : ∀ m, s.cfg.hasLane m = true → m ≠ n → testLane v m = laneEnabled s d m) :
    Elsewhere d n s (s.withEn d v) :=
  elsewhere_setBank s d n rfl fun m hm hne => by
    refine (laneView_withEn s d d m v).trans ?_
    rw [if_pos rfl, h m hm hne]
    rfl

/-- The lane's bit is set in the enable register, the others kept. -/
theorem elsewhere_enable {v : Word} (hv : v = withLaneBit s.cfg (s.bank d).en n) :
    Elsewhere d n s (s.withEn d v) :=
  elsewhere_withEn s d n fun m hm hne => by simp [hv, hm, hne, laneEnabled]

/-- The lane's bit is cleared in the enable register, the others kept. -/
theorem elsewhere_disable {v : Word} (hv : v = withoutLaneBit s.cfg (s.bank d).en n) :
    Elsewhere d n s (s.withEn d v) :=
  elsewhere_withEn s d n fun m hm hne => by simp [hv, hm, hne, laneEnabled]

theorem elsewhere_withSw (v : Word) : Elsewhere d n s (s.withSw d n v) :=
  elsewhere_setBank s d n rfl fun m _ hne => by
    have := laneView_withSw s d d n m v
    simpa [hne, State.withSw] using this

theorem elsewhere_withBase (v : Word) : Elsewhere d n s (s.withBase d n v) :=
  elsewhere_setBank s d n rfl fun m _ hne => by
    have := laneView_withBase s d d n m v
    simpa [hne, State.withBase] using this

theorem elsewhere_setChan (c : Chan) : Elsewhere d n s (s.setChan d n c) where
  cfg := setChan_cfg s d n c
  attached := setChan_attached s d n c
  bufSz := setChan_bufSz s d n c
  rxTimeout := setChan_rxTimeout s d n c
  ier e := by rw [setChan_bank]
  view e m _ hne := by rw [laneView_setChan, if_neg hne]

theorem elsewhere_setTxBuf (v : Word) : Elsewhere .tx n s (s.setTxBuf n v) where
  cfg := rfl
  attached := rfl
  bufSz := rfl
  rxTimeout := rfl
  ier e := by rw [setTxBuf_bank]
  view e m _ hne := by rw [laneView_setTxBuf, if_neg hne]

/-- A reset pulse: no lane was held in reset, and none is. -/
theorem elsewhere_pulsed (h : ∀ m, s.cfg.hasLane m = true → laneInReset s d m = false) :
    Elsewhere d n s (pulsed s d n) := by
  have rst : Elsewhere d n s (s.withRst d 0) := elsewhere_setBank s d n rfl fun m hm _ => by
    refine (laneView_withRst s d d m 0).trans ?_
    simp [laneView, h m hm]
  have still : controlPart (pulsed s d n) = controlPart ((s.withRst d 0).withSw d n 0) := by simp
  exact (rst.trans (elsewhere_withSw _ d n 0)).trans (.of_control still)

theorem laneView_pulsed : laneView (pulsed s d n) d n = { laneView s d n with inReset := false, sw := 0 } := by
  rw [pulsed, laneView_withStill, laneView_withSw, if_pos ⟨rfl, rfl⟩, laneView_withHw, laneView_withRst, if_pos rfl]
  simp

/-- A lane outside reset has its software pointer written. -/
theorem published_of_notInReset {s : State} {d : Dir} {n : Lane} (h : laneInReset s d n = false) (k : Nat) :
    published s d n k = s.withSw d n (toWord k) := by
  rw [published, h]
  rfl

end

/-! ### What the pieces of the commands leave -/

section
variable {s : State} {d : Dir} {n : Lane}

/-- The control unit writes a channel-table entry, and keeps slot, run state and software index. -/
theorem Disciplined.entry (h : Disciplined s) (hn : s.cfg.hasLane n = true) {c : Chan}
    (slot : c.slot = (s.chan d n).slot) (run : c.run = (s.chan d n).run)
    (index : c.run ≠ .idle → softwareIndex d c = softwareIndex d (s.chan d n)) :
    Disciplined (s.setChan d n c) := by
  refine h.of_elsewhere_kept (elsewhere_setChan s d n c) ?_ (by simpa using slot) (by simp)
  obtain ⟨armed, notReset, published, base, hal, top⟩ := h.lane d n hn
  rw [laneView_setChan, if_pos ⟨rfl, rfl⟩]
  exact ⟨by rw [← armed]; simp only [run]; rfl, notReset,
    fun hr => (published (run ▸ hr)).trans (by rw [index hr]; rfl), base, hal, fun ho => top (slot ▸ ho)⟩

/-- The control unit moves the software index of a lane and publishes it (R49 clause 5). -/
theorem Disciplined.publish (h : Disciplined s) (hn : s.cfg.hasLane n = true) {c : Chan} {k : Nat}
    (slot : c.slot = (s.chan d n).slot) (run : c.run = (s.chan d n).run) (index : softwareIndex d c = k) :
    Disciplined ((published s d n k).setChan d n c) := by
  obtain ⟨armed, notReset, -, base, hal, top⟩ := h.lane d n hn
  rw [published_of_notInReset notReset]
  refine h.of_elsewhere_kept ((elsewhere_withSw s d n _).trans (elsewhere_setChan _ d n c)) ?_
    (by simpa using slot) (by simp)
  rw [laneView_setChan, if_pos ⟨rfl, rfl⟩, laneView_withSw, if_pos ⟨rfl, rfl⟩]
  exact ⟨by rw [← armed]; simp only [run]; rfl, notReset, fun _ => by rw [index], base, hal,
    fun ho => top (slot ▸ ho)⟩

/-- The lane's bit is cleared in the enable register, and the lane is not `Armed` any more. -/
theorem Disciplined.disable (h : Disciplined s) (hn : s.cfg.hasLane n = true) {c : Chan}
    (slot : c.slot = (s.chan d n).slot) (run : c.run ≠ .armed)
    (index : c.run ≠ .idle → (s.chan d n).run ≠ .idle ∧ softwareIndex d c = softwareIndex d (s.chan d n)) :
    Disciplined ((s.withEn d (withoutLaneBit s.cfg (s.bank d).en n)).setChan d n c) := by
  refine h.of_elsewhere_kept ((elsewhere_disable s d n rfl).trans (elsewhere_setChan _ d n c)) ?_
    (by simpa using slot) (by simp)
  obtain ⟨-, notReset, published, base, hal, top⟩ := h.lane d n hn
  rw [laneView_setChan, if_pos ⟨rfl, rfl⟩, laneView_withEn, if_pos rfl, testLane_withoutLaneBit_self]
  refine ⟨iff_of_false run nofun, notReset, fun hr => ?_, base, hal, fun ho => top (slot ▸ ho)⟩
  obtain ⟨started, same⟩ := index hr
  exact (published started).trans (by rw [same]; rfl)

/-- A paused lane is enabled again (R199). -/
theorem Disciplined.enable (h : Disciplined s) (hn : s.cfg.hasLane n = true)
    (hrun : (s.chan d n).run ≠ .idle) : Disciplined
      ((s.withEn d (withLaneBit s.cfg (s.bank d).en n)).setChan d n { s.chan d n with run := .armed }) := by
  refine h.of_elsewhere_kept ((elsewhere_enable s d n rfl).trans (elsewhere_setChan _ d n _)) ?_ (by simp) (by simp)
  obtain ⟨-, notReset, published, base, hal, top⟩ := h.lane d n hn
  rw [laneView_setChan, if_pos ⟨rfl, rfl⟩, laneView_withEn, if_pos rfl]
  exact ⟨by simp [hn], notReset, fun _ => (published hrun).trans (by cases d <;> rfl), base, hal, top⟩

theorem elsewhere_stopped (h : Disciplined s) : Elsewhere d n s (stopped s d n) := by
  have disable : Elsewhere d n s ((dropReserved s).withEn d (withoutLaneBit s.cfg (s.bank d).en n)) :=
    (Elsewhere.of_control (controlPart_dropReserved s)).trans (elsewhere_disable (dropReserved s) d n rfl)
  refine ((disable.trans (elsewhere_pulsed _ d n fun m hm => ?_)).trans (elsewhere_withBase _ d n _)).trans
    (elsewhere_setChan _ d n _)
  have : laneInReset ((dropReserved s).withEn d (withoutLaneBit s.cfg (s.bank d).en n)) d m = laneInReset s d m := by
    cases d <;> rfl
  rw [this]
  exact (h.lane d m (by simpa using hm)).notInReset

/-- A stopped lane: not enabled, not in reset, its software pointer 0, its base the ring's. -/
theorem laneView_stopped : laneView (stopped s d n) d n =
    { chan := { stoppedChan d (s.chan d n) with run := .idle }, enabled := false, inReset := false, sw := 0
      base := s.buf d n, buf := s.buf d n } := by
  rw [stopped, laneView_setChan, if_pos ⟨rfl, rfl⟩, laneView_withBase, if_pos ⟨rfl, rfl⟩, laneView_pulsed,
    laneView_withEn, if_pos rfl, testLane_withoutLaneBit_self]
  cases d <;> rfl

theorem Disciplined.stopped (h : Disciplined s) (hn : s.cfg.hasLane n = true) : Disciplined (stopped s d n) := by
  refine h.of_elsewhere_kept (elsewhere_stopped h) ?_ (by simp [stoppedChan_slot])
    (congrArg LaneView.buf laneView_stopped)
  obtain ⟨-, -, -, -, hal, top⟩ := h.lane d n hn
  rw [laneView_stopped]
  exact ⟨by simp, rfl, fun hr => absurd rfl hr, rfl, hal, fun ho => top (stoppedChan_slot d _ ▸ ho)⟩

theorem elsewhere_triggered (h : Disciplined s) : Elsewhere d n s (triggered s n d) := by
  have pulse : Elsewhere d n s (pulsed (dropReserved s) d n) :=
    (Elsewhere.of_control (controlPart_dropReserved s)).trans (elsewhere_pulsed _ d n fun m hm => by
      rw [control_laneInReset (controlPart_dropReserved s)]
      exact (h.lane d m hm).notInReset)
  cases d with
  | rx => exact (pulse.trans (elsewhere_enable _ .rx n rfl)).trans (elsewhere_setChan _ .rx n _)
  | tx =>
    have hw : controlPart ((pulsed (dropReserved s) .tx n).withHw .tx n (toWord (s.chan .tx n).tail)) =
        controlPart (pulsed (dropReserved s) .tx n) := by simp
    exact ((pulse.trans (.of_control hw)).trans ((elsewhere_withSw _ .tx n _).trans
      (elsewhere_enable _ .tx n rfl))).trans (elsewhere_setChan _ .tx n _)

/-- A triggered lane: `Armed` and enabled, not in reset, its software index published. -/
theorem laneView_triggered (hn : s.cfg.hasLane n = true) : laneView (triggered s n d) d n =
    { chan := (triggered s n d).chan d n, enabled := true, inReset := false
      sw := toWord (softwareIndex d ((triggered s n d).chan d n)), base := (s.bank d).base[n.val]
      buf := s.buf d n } := by
  have drop : laneView (dropReserved s) d n = laneView s d n := laneView_congr (controlPart_dropReserved s) d n
  cases d with
  | rx =>
    simp only [triggered, laneView_setChan, laneView_withEn, laneView_pulsed, drop, setChan_chan_same,
      and_self, if_true, testLane_withLaneBit, hn]
    simp [laneView, softwareIndex, toWord]
  | tx =>
    simp only [triggered, laneView_setChan, laneView_withEn, laneView_withSw, laneView_withHw, laneView_pulsed, drop,
      setChan_chan_same, and_self, if_true, testLane_withLaneBit, hn]
    simp [laneView, softwareIndex]

theorem triggered_chan : ((triggered s n d).chan d n).slot = (s.chan d n).slot ∧
    ((triggered s n d).chan d n).run = .armed := by
  cases d <;> simp [triggered]

theorem Disciplined.triggered (h : Disciplined s) (hn : s.cfg.hasLane n = true) :
    Disciplined (triggered s n d) := by
  obtain ⟨slot, run⟩ := triggered_chan (s := s) (d := d) (n := n)
  have view := laneView_triggered (d := d) hn
  refine h.of_elsewhere_kept (elsewhere_triggered h) ?_ slot (congrArg LaneView.buf view)
  obtain ⟨-, -, -, base, hal, top⟩ := h.lane d n hn
  rw [view]
  exact ⟨iff_of_true run rfl, rfl, fun _ => rfl, base, hal, fun ho => top (slot ▸ ho)⟩

end

end Sys2Proof.Machine
end

section
/-! The ring and interrupt commands keep the invariants of R49, and stop at most as R357 says. -/

namespace Sys2Proof.Machine

variable {α β : Type} {F : Stop → Prop}

/-! ### Pieces that change nothing the invariants look at -/

/-- Where the piece runs to its end, the control part is as before; and it does so, or stops as `F` allows. -/
def Op.unseen (F : Stop → Prop) (x : Op α) : Prop :=
  ∀ s, x.ensures F s fun _ t => controlPart t = controlPart s

theorem unseen_emit (e : Event) : (emit e).unseen F := fun s =>
  ensures_update.mpr (by simp)

theorem unseen_emitOwned (d : Dir) (n : Lane) (e : Owner → Event) : (emitOwned d n e).unseen F := by
  intro s
  refine ensures_bind.mpr (ensures_lookChan.mpr ?_)
  cases (s.chan d n).slot with
  | free => exact ensures_done.mpr rfl
  | owned owner cb => exact unseen_emit (e owner) s

theorem unseen_drawStream : drawStream.unseen F := fun s => ensures_of_run (drawStream_run s) (by simp)

theorem unseen_ld32_isr (d : Dir) : (ld32 (.isr d)).unseen F := fun s => ensures_of_run (ld32_isr d s) (by simp)

theorem unseen_ack (d : Dir) (n : Lane) : (ack d n).unseen F := fun s => ensures_of_run (ack_run d n s) (by simp)

theorem unseen_opWhen {x : Op Unit} (h : x.unseen F) (b : Bool) : (opWhen b x).unseen F := fun s =>
  ensures_opWhen (fun _ => h s) fun _ => rfl

/-- After such a piece the invariants still hold. -/
theorem Disciplined.after_unseen {s : State} {x : Op α} {f : α → Op β} {Q : β → State → Prop}
    (h : Disciplined s) (hx : x.unseen F)
    (hf : ∀ a t, Disciplined t → controlPart t = controlPart s → (f a).ensures F t Q) :
    (x.bind f).ensures F s Q :=
  ensures_bind.mpr (ensures_mono (hx s) fun a t ht => hf a t (h.congr ht) ht)

/-- A piece that does what is known of it. -/
theorem ensures_did {x : Op α} {own : List Event} {s u : State} {a : α}
    (h : ∃ t, x.run s = .ok a t ∧ Did own s u t)
    (hu : Disciplined u) : x.ensures F s fun b t => b = a ∧ Disciplined t ∧ controlPart t = controlPart u := by
  obtain ⟨t, e, hd⟩ := h
  exact ensures_of_run e ⟨rfl, hu.congr hd.control, hd.control⟩

/-! ### The ways a command may stop -/

/-- R357: a command stops with `NotAttached`, `AlreadyAttached`, `BaseAlign` or `Overlap`, and never refuses. -/
def Lawful : Stop → Prop
  | .fault r => r = .notAttached ∨ r = .alreadyAttached ∨ r = .baseAlign ∨ r = .overlap
  | .refused _ => False

/-- What a command may rely on while it runs, as far as it has kept it: `CommandInv` without `cur = none`. -/
structure Sound (s : State) : Prop where
  parts : CoreParts s
  tables : TablesOk everyLane s
  disciplined : Disciplined s

theorem Sound.congr {s t : State} (h : Sound s) (parts : CoreParts t) (e : controlPart t = controlPart s) :
    Sound t :=
  ⟨parts, h.tables.congr (control_chan e) (control_txBuf e), h.disciplined.congr e⟩

/-- A piece made of the model's effects keeps `CoreParts` besides what else it guarantees. -/
theorem ensures_coreParts {x : Op α} {s : State} {Q : α → State → Prop} (hs : CoreParts s)
    (effects : ∀ c, x.effects c) (h : x.ensures F s Q) : x.ensures F s fun a t => CoreParts t ∧ Q a t :=
  ensures_and_run h fun _ _ e hQ => ⟨by
    have := coreParts_stepClosed.run (effects s.cfg) hs
    rwa [e] at this, hQ⟩

/-- The body keeps the invariants of R49, and stops at most as R357 says. -/
def Op.sound (x : Op α) : Prop := ∀ s, Sound s → x.ensures Lawful s fun _ => Disciplined

/-! ### STOP, PAUSE, TRIGGER -/

section
variable {s : State} {d : Dir} {n : Lane}

/-- A lane that is not `Armed` is not enabled (R49 clause 2). -/
theorem Disciplined.disabled (h : Disciplined s) (hn : s.cfg.hasLane n = true) (hrun : (s.chan d n).run ≠ .armed) :
    laneEnabled s d n = false := by
  rw [← Bool.not_eq_true]
  exact fun he => hrun ((h.lane d n hn).armedIffEnabled.mpr he)

theorem stopSequence_disciplined (h : Disciplined s) (hn : s.cfg.hasLane n = true) :
    (stopSequence d n).ensures F s fun _ t => Disciplined t ∧ controlPart t = controlPart (stopped s d n) :=
  ensures_mono (ensures_did (stopSequence_run d n s hn (h.lane d n hn).bufferAligned) (h.stopped hn))
    fun _ _ ht => ht.2

theorem corruptPath_disciplined (h : Disciplined s) (hn : s.cfg.hasLane n = true) :
    (corruptPath d n).ensures F s fun _ => Disciplined := by
  refine h.after_unseen (unseen_emit _) fun _ t ht e => ?_
  refine ensures_bind.mpr (ensures_mono (stopSequence_disciplined ht (by rwa [control_cfg e])) fun _ u hu => ?_)
  exact hu.1.after_unseen (unseen_emitOwned d n _) fun _ v hv _ => ensures_done.mpr hv

theorem stop_disciplined (h : Disciplined s) (hn : s.cfg.hasLane n = true) :
    (stopBody d n).ensures F s fun _ => Disciplined :=
  ensures_bind.mpr (ensures_mono (stopSequence_disciplined h hn) fun _ _ ht => ht.1)

theorem pause_disciplined (h : Disciplined s) (hn : s.cfg.hasLane n = true) :
    (pauseBody d n).ensures F s fun _ => Disciplined := by
  refine ensures_bind.mpr (ensures_lookChan.mpr (ensures_ite (fun hrun => ?_) fun _ => h))
  refine ensures_of_run (run_seq (clrEn_run d n s) (run_seq (setRun_run d n _ _) (run_done _ _))) ?_
  have paused : Disciplined ((s.withEn d (withoutLaneBit s.cfg (s.bank d).en n)).setChan d n
      { s.chan d n with run := .paused }) :=
    h.disable hn rfl nofun fun _ => ⟨by rw [hrun]; nofun, by cases d <;> rfl⟩
  exact paused.congr (by simp)

theorem trigger_disciplined (hs : Sound s) (hn : s.cfg.hasLane n = true) :
    (triggerBody d n).ensures F s fun _ => Disciplined := by
  have h := hs.disciplined
  refine ensures_bind.mpr (ensures_lookChan.mpr (ensures_ite (fun _ => ?_) fun _ => h))
  cases hrun : (s.chan d n).run with
  | armed => exact h
  | paused =>
    refine ensures_of_run (run_seq (run_seq (setEn_run d n s) (setRun_run d n _ _)) (run_done _ _)) ?_
    exact (h.enable hn (by rw [hrun]; nofun)).congr (by simp)
  | idle =>
    have disabled : laneEnabled s d n = false := h.disabled hn (by rw [hrun]; nofun)
    obtain ⟨-, -, -, -, head, tail⟩ := hs.parts.lane d n
    refine ensures_bind.mpr (ensures_mono (?_ : (triggerIdle n d).ensures F s fun _ => Disciplined) fun _ _ ht => ht)
    cases d with
    | rx => exact ensures_mono (ensures_did (triggerIdleRx_run n s hn disabled) (h.triggered hn)) fun _ _ ht => ht.2.1
    | tx =>
      exact ensures_mono (ensures_did (triggerIdleTx_run n s hn disabled head tail) (h.triggered hn))
        fun _ _ ht => ht.2.1

end

/-! ### The ring commands -/

section
variable {s : State} {d : Dir} {n : Lane}

theorem owned_iff {c : Slot} : c.isOwned = true ↔ ∃ owner cb, c = .owned owner cb := by
  cases c <;> simp [Slot.isOwned]

/-- An owned lane's ring ends below the top (R62). -/
theorem Disciplined.ringBelowTop (h : Disciplined s) (hn : s.cfg.hasLane n = true)
    (ho : (s.chan d n).slot.isOwned = true) : (s.buf d n).toNat + cap s.cfg d ≤ 2 ^ 32 := by
  have := (h.lane d n hn).bufferBelowTop ho
  exact of_decide_eq_true this

theorem updsw_disciplined (val : Word) (h : Disciplined s) (hn : s.cfg.hasLane n = true) :
    (updswBody d val n).ensures F s fun _ => Disciplined := by
  refine ensures_bind.mpr (ensures_params.mpr (ensures_bind.mpr (ensures_lookChan.mpr
    (ensures_ite (fun _ => h) fun _ => ensures_ite (fun hval => ?_) fun _ => h))))
  refine ensures_of_run (run_seq (updateChan_run d n _ s) (run_seq (st32_sw_value _ ?_) (run_done _ _))) ?_
  · simpa using hval
  · have moved : Disciplined ((published s d n val.toNat).setChan d n
        (setSoftwareIndex d val.toNat (s.chan d n))) :=
      h.publish hn (setSoftwareIndex_slot ..) (setSoftwareIndex_run ..) (by cases d <;> rfl)
    exact moved.congr (by simp)

theorem rdhw_disciplined (h : Disciplined s) (hn : s.cfg.hasLane n = true) :
    (rdhwBody d n).ensures F s fun _ => Disciplined := by
  have hb : Disciplined (boundary s) := h.congr (controlPart_boundary s)
  refine ensures_bind.mpr (ensures_params.mpr (ensures_bind.mpr (ensures_of_run (ld32_hw d n s)
    (ensures_ite (fun _ => hb) fun _ => corruptPath_disciplined hb ?_))))
  simpa using hn

/-- RXDRAIN publishes the tail it moved (R245). -/
theorem drained_disciplined (h : Disciplined s) (hn : s.cfg.hasLane n = true) (k acc : Nat) (w : Bool) :
    Disciplined (drained s n k acc w) :=
  Disciplined.publish (d := .rx) (h.congr (controlPart_dropAccepted s)) hn rfl rfl rfl

theorem rxdrain_disciplined (hs : CoreParts s) (h : Disciplined s) (hn : s.cfg.hasLane n = true)
    (started : (s.chan .rx n).run ≠ .idle → (s.chan .rx n).slot.isOwned = true) :
    (rxdrainBody n).ensures F s fun _ => Disciplined := by
  by_cases hrun : (s.chan .rx n).run = .idle
  · refine ensures_bind.mpr (ensures_lookChan.mpr (ensures_ite (fun _ => h) fun hne => absurd hrun hne))
  obtain ⟨owner, cb, slot⟩ := owned_iff.mp (started hrun)
  have top := h.ringBelowTop hn (started hrun)
  have tail := (hs.lane .rx n).tailInRange
  by_cases hlt : ((boundary s).bank .rx).hw[n.val].toNat < cap s.cfg .rx
  · by_cases heq : ((boundary s).bank .rx).hw[n.val].toNat = (s.chan .rx n).tail
    · exact ensures_mono (ensures_did (rxdrain_nothing s n hrun tail heq)
        (h.entry hn rfl rfl fun _ => rfl)) fun _ _ ht => ht.2.1
    · obtain ⟨w, t, bs, e, -, hd, -⟩ := rxdrain_run s n owner cb _ hrun slot tail top rfl hlt heq
      exact ensures_of_run e ((drained_disciplined h hn _ _ w).congr hd.control)
  · have hb : Disciplined (boundary s) := h.congr (controlPart_boundary s)
    refine ensures_bind.mpr (ensures_lookChan.mpr (ensures_ite (fun hi => absurd hi hrun) fun _ => ?_))
    refine ensures_bind.mpr (ensures_params.mpr (ensures_bind.mpr (ensures_of_run (ld32_hw .rx n s)
      (ensures_bind.mpr (ensures_lookChan.mpr (ensures_ite (fun hi => absurd hi hlt) fun _ => ?_))))))
    exact corruptPath_disciplined hb (by simpa using hn)

/-- TXCOMP moves the hardware side's index; it publishes the software index again where bytes remain (R258). -/
theorem completed_disciplined (h : Disciplined s) (hn : s.cfg.hasLane n = true) (r : Nat) (w : Bool) :
    Disciplined (completed s n r w) := by
  unfold completed
  split
  · exact Disciplined.entry (d := .tx) h hn rfl rfl fun _ => rfl
  · exact Disciplined.publish (d := .tx) h hn rfl rfl rfl

theorem txcomp_disciplined (hs : CoreParts s) (h : Disciplined s) (hn : s.cfg.hasLane n = true) :
    (txcompBody n).ensures F s fun _ => Disciplined := by
  by_cases hrun : (s.chan .tx n).run = .idle
  · refine ensures_bind.mpr (ensures_lookChan.mpr (ensures_ite (fun _ => h) fun hne => absurd hrun hne))
  by_cases hok : consumedOk s.cfg (s.chan .tx n) ((boundary s).bank .tx).hw[n.val].toNat = true
  · obtain ⟨hlt, hpath⟩ := by simpa [consumedOk] using hok
    obtain ⟨w, t, e, hd, -⟩ := txcomp_run s n _ hrun (hs.lane .tx n).headInRange rfl hlt hpath
    exact ensures_of_run e ((completed_disciplined h hn _ w).congr hd.control)
  · have hb : Disciplined (boundary s) := h.congr (controlPart_boundary s)
    refine ensures_bind.mpr (ensures_lookChan.mpr (ensures_ite (fun hi => absurd hi hrun) fun _ => ?_))
    refine ensures_bind.mpr (ensures_params.mpr (ensures_bind.mpr (ensures_of_run (ld32_hw .tx n s)
      (ensures_bind.mpr (ensures_lookChan.mpr (ensures_ite (fun hi => absurd ?_ hok) fun _ => ?_))))))
    · simpa using hi
    · exact corruptPath_disciplined hb (by simpa using hn)

/-- TXPROD publishes the head it moved, and starts an `Idle` lane (R255). -/
theorem refilled_disciplined (h : Disciplined s) (hn : s.cfg.hasLane n = true) (count : Nat) (data : List Byte)
    (k : Nat) : Disciplined (refilled s n count data k) := by
  have cfg : (produced s n data k).cfg = s.cfg := by simp [produced]
  have copied : Disciplined (produced s n data k) :=
    Disciplined.publish (d := .tx) (h.congr (controlPart_setMem s (ringFilled s .tx n _ data k))) hn rfl rfl rfl
  have hn' : (produced s n data k).cfg.hasLane n = true := by rwa [cfg]
  have started : Disciplined (startedIfIdle (produced s n data k) n k) ∧
      (startedIfIdle (produced s n data k) n k).cfg.hasLane n = true := by
    unfold startedIfIdle
    split
    · exact ⟨copied.triggered hn', by rwa [(elsewhere_triggered copied).cfg]⟩
    · exact ⟨copied, hn'⟩
  exact Disciplined.entry (d := .tx) started.1 started.2 rfl rfl fun _ => rfl

theorem txprod_disciplined (count : Nat) (data : List Byte) (hs : CoreParts s) (h : Disciplined s)
    (hn : s.cfg.hasLane n = true) : (txprodBody count data n).ensures F s fun _ => Disciplined := by
  refine ensures_bind.mpr (ensures_params.mpr (ensures_bind.mpr (ensures_lookChan.mpr
    (ensures_ite (fun howned => ?_) fun _ => h))))
  obtain ⟨owner, cb, slot⟩ := owned_iff.mp howned
  have disabled : (s.chan .tx n).run = .idle → laneEnabled s .tx n = false := fun hrun =>
    h.disabled hn (by rw [hrun]; nofun)
  exact ensures_mono (ensures_did (refill_run n owner cb count _ data s hn slot (hs.lane .tx n).tailInRange
    (h.ringBelowTop hn howned) disabled) (refilled_disciplined h hn count data _)) fun _ _ ht => ht.2.1

theorem workTx_disciplined (hs : CoreParts s) (h : Disciplined s) (hn : s.cfg.hasLane n = true) :
    (workTx n).ensures F s fun _ => Disciplined := by
  refine ensures_bind.mpr (ensures_and_run (ensures_coreParts hs (fun _ => effects_txcompBody n)
    (txcomp_disciplined hs h hn)) fun r t e ⟨hp, ht⟩ => ensures_ite (fun _ => ht) fun _ => ?_)
  have cfg : t.cfg = s.cfg := (effects_kept_ok (fun _ => effects_txcompBody n) e).cfg
  refine ensures_bind.mpr (ensures_and_run (ensures_coreParts hp (fun _ => effects_drawStream)
    (unseen_drawStream t)) fun offer u e ⟨hpu, hu⟩ => ?_)
  refine ensures_bind.mpr (ensures_lookChan.mpr (ensures_ite (fun _ => ?_) fun _ => ht.congr hu))
  refine ensures_bind.mpr (ensures_mono (txprod_disciplined _ _ hpu (ht.congr hu) ?_) fun _ _ hv => hv)
  rw [control_cfg hu, cfg]
  exact hn

theorem work_disciplined (hs : Sound s) (hn : s.cfg.hasLane n = true) :
    (workBody d n).ensures F s fun _ => Disciplined := by
  have h := hs.disciplined
  refine ensures_bind.mpr (ensures_lookChan.mpr (ensures_ite (fun _ => ?_) fun _ => h))
  have cleared : Disciplined (s.setChan d n { s.chan d n with work := false }) :=
    h.entry hn rfl rfl fun _ => by cases d <;> rfl
  refine ensures_bind.mpr (ensures_updateChan.mpr ?_)
  have effects : (updateChan d n fun c => { c with work := false }).effects s.cfg :=
    effects_updateChan n (keepsRange_same fun _ => ⟨rfl, rfl⟩)
  have parts : CoreParts ((boundary s).setChan d n { s.chan d n with work := false }) := by
    have := coreParts_stepClosed.run effects hs.parts
    rwa [updateChan_run, final_ok] at this
  have ht : Disciplined ((boundary s).setChan d n { s.chan d n with work := false }) :=
    cleared.congr (by simp)
  cases d with
  | tx => exact workTx_disciplined parts ht (by simpa using hn)
  | rx =>
    refine rxdrain_disciplined parts ht (by simpa using hn) ?_
    rw [setChan_chan_same]
    exact hs.tables.startedOwned .rx n

end

/-! ### DISPATCH -/

section
variable {s : State} {d : Dir} {n : Lane}

theorem setWork_disciplined (h : Disciplined s) (hn : s.cfg.hasLane n = true) :
    (setWork d n).ensures F s fun _ => Disciplined :=
  ensures_of_run (setWork_run d n s)
    ((h.congr (controlPart_boundary s)).entry (by simpa using hn) (by simp) (by simp) fun _ => by
      cases d <;> simp [softwareIndex])

theorem invokeCallback_disciplined (v : Nat) (h : Disciplined s) (hn : s.cfg.hasLane n = true) :
    (invokeCallback d n v).ensures F s fun _ => Disciplined := by
  refine ensures_bind.mpr (ensures_lookChan.mpr ?_)
  cases (s.chan d n).slot with
  | free => exact setWork_disciplined h hn
  | owned owner cb =>
    exact h.after_unseen (unseen_emit _) fun _ t ht e => setWork_disciplined ht (by rwa [control_cfg e])

/-- A lane that is not `Armed` is left as it was, but for the resynchronisation of an `Idle` one (R284). -/
theorem defensive_disciplined (h : Disciplined s) (hn : s.cfg.hasLane n = true)
    (hrun : (s.chan d n).run ≠ .armed) : (defensive d n).ensures F s fun _ => Disciplined := by
  refine ensures_bind.mpr (ensures_lookChan.mpr (h.after_unseen (unseen_emit _) fun _ t ht e => ?_))
  have hnt : t.cfg.hasLane n = true := by rwa [control_cfg e]
  have entry : t.chan d n = s.chan d n := control_chan e d n
  have cleared : Disciplined (t.withEn d (withoutLaneBit t.cfg (t.bank d).en n)) := by
    have := ht.disable hnt rfl (by rwa [entry]) fun hr => ⟨hr, rfl⟩
    rwa [show t.chan d n = (t.withEn d (withoutLaneBit t.cfg (t.bank d).en n)).chan d n by simp, setChan_self] at this
  refine ensures_bind.mpr (ensures_of_run (clrEn_run d n t) ?_)
  have hu : Disciplined ((boundary (dropReserved (boundary t))).withEn d (withoutLaneBit t.cfg (t.bank d).en n)) :=
    cleared.congr (by simp)
  refine ensures_opWhen (fun hidle => ?_) fun _ => hu
  obtain ⟨rfl, hidle⟩ := of_decide_eq_true hidle
  refine ensures_bind.mpr (ensures_params.mpr (ensures_bind.mpr (ensures_of_run (ld32_hw .rx n _)
    (ensures_opWhen (fun _ => ensures_updateChan.mpr ?_) fun _ => hu.congr (controlPart_boundary _)))))
  refine (hu.congr (by simp)).entry (by simpa using hnt) (by simp) (by simp) fun hne => absurd ?_ hne
  simpa [entry] using hidle

theorem complete_disciplined (h : Disciplined s) (hn : s.cfg.hasLane n = true) :
    (complete d n).ensures F s fun _ => Disciplined := by
  have hb : Disciplined (boundary s) := h.congr (controlPart_boundary s)
  have hnb : (boundary s).cfg.hasLane n = true := by simpa using hn
  refine ensures_bind.mpr (ensures_lookChan.mpr (ensures_ite (fun _ => ?_) (defensive_disciplined h hn)))
  refine ensures_bind.mpr (ensures_params.mpr (ensures_bind.mpr (ensures_of_run (ld32_hw d n s)
    (ensures_ite (fun _ => invokeCallback_disciplined _ hb hnb) fun _ => ?_))))
  exact ensures_bind.mpr (ensures_mono (corruptPath_disciplined hb hnb) fun _ _ ht => ht)

/-- A loop over the lanes, each of whose rounds keeps the invariants. -/
theorem forEach_lanes_disciplined {f : Lane → Op Unit} (h : Disciplined s)
    (effects : ∀ n c, (f n).effects c)
    (hf : ∀ n t, Disciplined t → t.cfg.hasLane n = true → (f n).ensures F t fun _ => Disciplined) :
    (forEach s.cfg.lanes f).ensures F s fun _ t => Disciplined t ∧ t.cfg = s.cfg := by
  refine ensures_forEach_keep ⟨h, rfl⟩ fun n hn t ⟨ht, cfg⟩ => ensures_and_run
    (hf n t ht (by rw [cfg]; exact mem_lanes.mp hn)) fun _ u e hu => ⟨hu, ?_⟩
  exact (effects_kept_ok (effects n) e).cfg.trans cfg

theorem serviceLanes_disciplined (snapshot : Word) (h : Disciplined s) :
    (forEach s.cfg.lanes (serviceLane d snapshot)).ensures F s fun _ t => Disciplined t ∧ t.cfg = s.cfg := by
  refine forEach_lanes_disciplined h (fun n c => ?_) fun n t ht hn => ?_
  · exact each_opWhen fun _ => each_bind (effects_ack d n) fun _ => effects_complete d n
  · exact ensures_opWhen (fun _ => ht.after_unseen (unseen_ack d n) fun _ u hu e =>
      complete_disciplined hu (by rwa [control_cfg e])) fun _ => ht

theorem dispatch_disciplined (h : Disciplined s) : dispatchBody.ensures F s fun _ => Disciplined := by
  refine ensures_bind.mpr (ensures_params.mpr ?_)
  refine h.after_unseen (unseen_ld32_isr .tx) fun tx t1 h1 e1 => ?_
  refine h1.after_unseen (unseen_ld32_isr .rx) fun rx t2 h2 e2 => ?_
  refine h2.after_unseen (unseen_opWhen (unseen_emit _) _) fun _ t3 h3 e3 => ?_
  refine h3.after_unseen (unseen_opWhen (unseen_emit _) _) fun _ t4 h4 e4 => ?_
  have cfg : t4.cfg = s.cfg := control_cfg (e4.trans (e3.trans (e2.trans e1)))
  refine ensures_ite (fun _ => ?_) fun _ => ?_
  · exact h4.after_unseen (unseen_emit _) fun _ _ ht _ => ht
  · rw [← cfg]
    refine ensures_bind.mpr (ensures_mono (serviceLanes_disciplined tx h4) fun _ t5 ⟨h5, cfg5⟩ => ?_)
    rw [← cfg5]
    exact ensures_bind.mpr (ensures_mono (serviceLanes_disciplined rx h5) fun _ _ ht => ht.1)

end

end Sys2Proof.Machine
end

section
/-! The commands that claim, release, attach and detach keep the invariants of R49; and so does every command. -/

namespace Sys2Proof.Machine

variable {α β : Type} {F : Stop → Prop}

/-! ### Claiming lanes -/

section
variable {s : State} {d : Dir} {n : Lane}

theorem mem_rxRings {c : Params} (h : receiveRingsOk c = true) (hn : c.hasLane n = true) :
    aligned c c.rxBufPhys[n.val] = true ∧ belowTop c .rx c.rxBufPhys[n.val] = true := by
  simp only [receiveRingsOk, Bool.and_eq_true, List.all_eq_true] at h
  exact h.1 n (mem_lanes.mpr hn)

theorem claimRx_disciplined (owner : Owner) (cb : Callback) (h : Disciplined s) (hn : s.cfg.hasLane n = true) :
    (claimRxBody owner cb n).ensures F s fun _ => Disciplined := by
  refine ensures_bind.mpr (ensures_params.mpr (ensures_bind.mpr (ensures_lookChan.mpr
    (ensures_ite (fun _ => h) fun _ => ensures_bind.mpr (ensures_updateChan.mpr ?_)))))
  have claimed : Disciplined (s.setChan .rx n { s.chan .rx n with slot := .owned owner cb }) := by
    refine h.of_elsewhere (elsewhere_setChan s .rx n _) ?_ (h.txRings.mono (setChan_cfg ..) fun m _ ho => ⟨ho, rfl⟩)
    obtain ⟨armed, notReset, published, base, hal, -⟩ := h.lane .rx n hn
    rw [laneView_setChan, if_pos ⟨rfl, rfl⟩]
    exact ⟨armed, notReset, published, base, hal, fun _ => (mem_rxRings h.ringsOk hn).2⟩
  exact claimed.congr (by simp)

theorem disjoint_comm (a b : Region) : disjoint a b = disjoint b a := by
  simp only [disjoint, or_comm]

/-- A buffer that fits is disjoint from the register window, the receive rings and the owned transmit rings. -/
theorem txBufferFits_iff {addr : Word} : txBufferFits s addr = true ↔ belowTop s.cfg .tx addr = true ∧
    (windowRegion s.cfg :: rxRegions s.cfg).all (disjoint (ringRegion s.cfg .tx addr)) = true ∧
    ∀ m, s.cfg.hasLane m = true → (s.chan .tx m).slot.isOwned = true →
      disjoint (ringRegion s.cfg .tx addr) (ringRegion s.cfg .tx s.txBuf[m.val]) = true := by
  simp [txBufferFits, ownedTxRegions, and_assoc, imp_iff_not_or]

/-- The owned transmit rings stay disjoint where one lane gets a buffer that fits and the others are as before. -/
theorem TxRingsDisjoint.claim {t : State} {addr : Word} (h : TxRingsDisjoint s)
    (fits : txBufferFits s addr = true) (cfg : t.cfg = s.cfg) (given : t.txBuf[n.val] = addr)
    (kept : ∀ m, m ≠ n → t.chan .tx m = s.chan .tx m ∧ t.txBuf[m.val] = s.txBuf[m.val]) :
    TxRingsDisjoint t := by
  obtain ⟨-, fixed, others⟩ := txBufferFits_iff.mp fits
  intro m hm ho
  rw [cfg] at hm ⊢
  obtain rfl | hmn := eq_or_ne m n
  · rw [given]
    refine ⟨fixed, fun k hk hkm hok => ?_⟩
    obtain ⟨chan, buf⟩ := kept k hkm
    rw [buf]
    exact others k hk (chan ▸ hok)
  · obtain ⟨chan, buf⟩ := kept m hmn
    rw [chan] at ho
    rw [buf]
    obtain ⟨mfixed, mothers⟩ := h m hm ho
    refine ⟨mfixed, fun k hk hkm hok => ?_⟩
    obtain rfl | hkn := eq_or_ne k n
    · rw [given, disjoint_comm]
      exact others m hm ho
    · obtain ⟨chan, buf⟩ := kept k hkn
      rw [buf]
      exact mothers k hk hkm (chan ▸ hok)

theorem claimTx_disciplined (owner : Owner) (cb : Callback) (addr : Word) (hs : Sound s)
    (hn : s.cfg.hasLane n = true) : (claimTxBody owner cb addr n).ensures Lawful s fun _ => Disciplined := by
  have h := hs.disciplined
  refine ensures_bind.mpr (ensures_params.mpr (ensures_bind.mpr (ensures_lookChan.mpr
    (ensures_ite (fun _ => h) fun hfree => ?_))))
  refine ensures_bind.mpr (ensures_faultIf (fun _ => by simp [Lawful]) fun hal => ensures_bind.mpr
    (ensures_lookFits.mpr (ensures_bind.mpr (ensures_faultIf (fun _ => by simp [Lawful]) fun hfit => ?_))))
  obtain hal : aligned s.cfg addr = true := by simpa using hal
  obtain hfit : txBufferFits s addr = true := by simpa using hfit
  have hidle : (s.chan .tx n).run = .idle := by
    by_contra hrun
    exact hfree (hs.tables.startedOwned .tx n hrun)
  have disabled : laneEnabled s .tx n = false := h.disabled hn (by rw [hidle]; nofun)
  refine ensures_of_run (run_seq (st32_base s disabled hal) (run_seq (update_run _ _)
    (run_seq (updateChan_run .tx n _ _) (run_done _ _)))) ?_
  have claimed : Disciplined (((s.withBase .tx n addr).setTxBuf n addr).setChan .tx n
      { s.chan .tx n with slot := .owned owner cb }) := by
    refine h.of_elsewhere (((elsewhere_withBase s .tx n _).trans (elsewhere_setTxBuf _ n _)).trans
      (elsewhere_setChan _ .tx n _)) ?_ ?_
    · obtain ⟨armed, notReset, published, -, -, -⟩ := h.lane .tx n hn
      rw [laneView_setChan, if_pos ⟨rfl, rfl⟩, laneView_setTxBuf, if_pos ⟨rfl, rfl⟩, laneView_withBase,
        if_pos ⟨rfl, rfl⟩]
      exact ⟨armed, notReset, published, rfl, hal, fun _ => (txBufferFits_iff.mp hfit).1⟩
    · refine TxRingsDisjoint.claim (n := n) h.txRings hfit (by simp) (by simp) fun m hm => ⟨?_, ?_⟩
      · simp [setChan_chan, hm]
      · simpa using lane_set_other s.txBuf addr hm
  exact claimed.congr (by simp)

end

/-! ### Freeing lanes -/

section
variable {s : State} {d : Dir} {n : Lane}

/-- A free lane at rest. -/
def Vacant (s : State) (d : Dir) (n : Lane) : Prop := (s.chan d n).slot = .free ∧ (s.chan d n).run = .idle

theorem Vacant.of_elsewhere {t : State} {e : Dir} {m : Lane} (h : Vacant s e m) (k : Elsewhere d n s t)
    (hm : s.cfg.hasLane m = true) (hne : ¬(e = d ∧ m = n)) : Vacant t e m := by
  have : t.chan e m = s.chan e m := congrArg LaneView.chan (k.view e m hm hne)
  rwa [Vacant, this]

/-- A stopped lane is freed. -/
theorem freed_disciplined (h : Disciplined s) (hn : s.cfg.hasLane n = true) (hrun : (s.chan d n).run = .idle) :
    Disciplined (s.setChan d n (freedChan (s.chan d n))) := by
  have view : laneView (s.setChan d n (freedChan (s.chan d n))) d n =
      { laneView s d n with chan := freedChan (s.chan d n) } := by rw [laneView_setChan, if_pos ⟨rfl, rfl⟩]
  refine h.of_elsewhere (elsewhere_setChan s d n _) ?_ (h.txRings.mono (setChan_cfg ..) fun m _ ho => ?_)
  · obtain ⟨armed, notReset, published, base, hal, -⟩ := h.lane d n hn
    rw [view]
    exact ⟨armed, notReset, fun hr => absurd hrun hr, base, hal, nofun⟩
  · rw [setChan_chan] at ho
    split at ho
    · cases ho
    · exact ⟨ho, by simp⟩

/-- The base and the buffer of a free transmit lane go to 0 (R193, R203). -/
theorem dropped_disciplined (h : Disciplined s) (hn : s.cfg.hasLane n = true) (vacant : Vacant s .tx n) :
    Disciplined ((s.withBase .tx n 0).setTxBuf n 0) := by
  obtain ⟨hslot, hrun⟩ := vacant
  refine h.of_elsewhere ((elsewhere_withBase s .tx n 0).trans (elsewhere_setTxBuf _ n 0)) ?_
    (h.txRings.mono rfl fun m _ ho => ?_)
  · obtain ⟨armed, notReset, published, -, -, -⟩ := h.lane .tx n hn
    rw [laneView_setTxBuf, if_pos ⟨rfl, rfl⟩, laneView_withBase, if_pos ⟨rfl, rfl⟩]
    refine ⟨armed, notReset, published, rfl, aligned_zero _, fun ho => ?_⟩
    rw [show (laneView s .tx n).chan.slot = .free from hslot] at ho
    cases ho
  · rw [setTxBuf_chan, withBase_chan] at ho
    refine ⟨ho, ?_⟩
    have hmn : m ≠ n := by
      rintro rfl
      rw [hslot] at ho
      cases ho
    simpa using lane_set_other s.txBuf 0 hmn

theorem dropTxBuffer_run (hn : laneEnabled s .tx n = false) : (dropTxBuffer n).run s =
    .ok () ((boundary ((boundary s).withBase .tx n 0)).setTxBuf n 0) :=
  run_seq (st32_base s hn (aligned_zero _)) (clearTxBuf_run n _)

/-- The STOP sequence, and what it leaves of the run state. -/
theorem stopSequence_idles (h : Disciplined s) (hn : s.cfg.hasLane n = true) :
    (stopSequence d n).ensures F s fun _ t =>
      Disciplined t ∧ Elsewhere d n s t ∧ (t.chan d n).run = .idle ∧ t.cfg.hasLane n = true := by
  refine ensures_mono (stopSequence_disciplined h hn) fun _ t ⟨ht, e⟩ =>
    ⟨ht, (elsewhere_stopped h).trans (.of_control e), ?_, ?_⟩
  · rw [control_chan e, stopped_chan]
  · rwa [control_cfg e, stopped_cfg]

theorem release_disciplined (h : Disciplined s) (hn : s.cfg.hasLane n = true) :
    (releaseBody d n).ensures F s fun _ => Disciplined := by
  refine ensures_bind.mpr (ensures_lookChan.mpr (ensures_ite (fun _ => ?_) fun _ => h))
  refine ensures_bind.mpr (ensures_mono (stopSequence_idles h hn) fun _ t ⟨ht, _, hrun, hnt⟩ => ?_)
  have freed := freed_disciplined ht hnt hrun
  cases d with
  | rx =>
    exact ensures_bind.mpr (ensures_done.mpr (ensures_bind.mpr (ensures_updateChan.mpr (freed.congr (by simp)))))
  | tx =>
    have dropped := dropped_disciplined freed (by simpa using hnt)
      ⟨by simp [freedChan], by simpa [freedChan] using hrun⟩
    have disabled : laneEnabled t .tx n = false := ht.disabled hnt (by rw [hrun]; nofun)
    refine ensures_of_run (run_seq (dropTxBuffer_run disabled) (run_seq (updateChan_run .tx n _ _) (run_done _ _))) ?_
    exact dropped.congr (by simp)

/-! ### DETACH -/

theorem detachLane_disciplined (h : Disciplined s) (hn : s.cfg.hasLane n = true) :
    (detachLane d n).ensures F s fun _ t => Disciplined t ∧ Elsewhere d n s t ∧ Vacant t d n := by
  refine ensures_bind.mpr (ensures_mono (stopSequence_idles h hn) fun _ t ⟨ht, e, hrun, hnt⟩ => ?_)
  refine ensures_updateChan.mpr ⟨(freed_disciplined ht hnt hrun).congr (by simp), ?_, ?_⟩
  · exact e.trans ((Elsewhere.of_control (controlPart_boundary t)).trans (elsewhere_setChan _ d n _))
  · exact ⟨by simp [freedChan], by simpa [freedChan] using hrun⟩

/-- A loop over the existing lanes that settles each of them, and unsettles none. -/
theorem forEach_lanes_settle {c : Params} {f : Lane → Op Unit} {I : State → Prop} {Q : Lane → State → Prop}
    (h : I s) (hf : ∀ n t, c.hasLane n = true → I t → (f n).ensures F t fun _ u =>
      I u ∧ Q n u ∧ ∀ m, c.hasLane m = true → m ≠ n → Q m t → Q m u) :
    (forEach c.lanes f).ensures F s fun _ t => I t ∧ ∀ m, c.hasLane m = true → Q m t := by
  refine ensures_mono (ensures_forEach (fun done t => I t ∧ ∀ m ∈ done, c.hasLane m = true → Q m t) c.lanes [] s
    ⟨h, nofun⟩ fun n hn done t ⟨ht, settled⟩ => ?_) fun _ t ⟨ht, settled⟩ => ⟨ht, fun m hm => ?_⟩
  · refine ensures_mono (hf n t (mem_lanes.mp hn) ht) fun _ u ⟨hu, now, still⟩ => ⟨hu, fun m hm hl => ?_⟩
    obtain rfl | hmn := eq_or_ne m n
    · exact now
    · exact still m hl hmn (settled m (by simpa [hmn] using hm) hl)
  · exact settled m (by simpa using hm) hm

/-- Every existing transmit lane is free and at rest. -/
def TxVacant (s : State) : Prop := ∀ n, s.cfg.hasLane n = true → Vacant s .tx n

theorem detachTx_disciplined (h : Disciplined s) : (forEach s.cfg.lanes (detachLane .tx)).ensures F s fun _ t =>
    Disciplined t ∧ t.cfg = s.cfg ∧ TxVacant t := by
  refine ensures_mono (forEach_lanes_settle (I := fun t => Disciplined t ∧ t.cfg = s.cfg)
    (Q := fun n t => Vacant t .tx n) ⟨h, rfl⟩ fun n t hn ⟨ht, cfg⟩ => ?_) fun _ t ⟨⟨ht, cfg⟩, settled⟩ =>
      ⟨ht, cfg, fun n hn => settled n (cfg ▸ hn)⟩
  refine ensures_mono (detachLane_disciplined ht (cfg ▸ hn)) fun _ u ⟨hu, e, vacant⟩ =>
    ⟨⟨hu, e.cfg.trans cfg⟩, vacant, fun m hm hne hv => hv.of_elsewhere e (cfg ▸ hm) fun hm => hne hm.2⟩

theorem detachRx_disciplined (h : Disciplined s) (vacant : TxVacant s) :
    (forEach s.cfg.lanes (detachLane .rx)).ensures F s fun _ t => Disciplined t ∧ t.cfg = s.cfg ∧ TxVacant t := by
  refine ensures_forEach_keep ⟨h, rfl, vacant⟩ fun n hn t ⟨ht, cfg, hv⟩ => ?_
  refine ensures_mono (detachLane_disciplined ht (by rw [cfg]; exact mem_lanes.mp hn)) fun _ u ⟨hu, e, _⟩ =>
    ⟨hu, e.cfg.trans cfg, fun m hm => ?_⟩
  rw [e.cfg] at hm
  exact (hv m hm).of_elsewhere e hm nofun

theorem dropTxBuffers_disciplined (h : Disciplined s) (vacant : TxVacant s) :
    (forEach s.cfg.lanes dropTxBuffer).ensures F s fun _ t => Disciplined t ∧ t.cfg = s.cfg ∧ TxVacant t := by
  refine ensures_forEach_keep ⟨h, rfl, vacant⟩ fun n hn t ⟨ht, cfg, hv⟩ => ?_
  have hnt : t.cfg.hasLane n = true := by rw [cfg]; exact mem_lanes.mp hn
  have disabled : laneEnabled t .tx n = false := ht.disabled hnt (by rw [(hv n hnt).2]; nofun)
  refine ensures_of_run (dropTxBuffer_run disabled) ⟨(dropped_disciplined ht hnt (hv n hnt)).congr (by simp),
    by simpa using cfg, fun m hm => ?_⟩
  simpa [Vacant] using hv m (by simpa using hm)

theorem controlPart_attached {t : State} {b : Bool} (h : controlPart t = controlPart s) :
    controlPart { t with attached := b } = controlPart { s with attached := b } :=
  congrArg (fun u : State => { u with attached := b }) h

/-- DETACH masks the interrupts and notes that the driver is detached (R193). -/
theorem masked_disciplined (h : Disciplined s) :
    Disciplined { (s.withIer .tx 0).withIer .rx 0 with attached := false } where
  lane d n hn := by
    have view : laneView { (s.withIer .tx 0).withIer .rx 0 with attached := false } d n = laneView s d n := by
      cases d <;> rfl
    rw [view]
    exact h.lane d n hn
  ringsOk := h.ringsOk
  txRings := h.txRings.mono rfl fun n _ ho => ⟨ho, rfl⟩
  interruptsOn := nofun
  configured := h.configured

theorem detach_disciplined (h : Disciplined s) : detachBody.ensures F s fun _ => Disciplined := by
  refine ensures_bind.mpr (ensures_params.mpr ?_)
  refine ensures_bind.mpr (ensures_mono (detachTx_disciplined h) fun _ t1 ⟨h1, cfg1, v1⟩ => ?_)
  rw [← cfg1]
  refine ensures_bind.mpr (ensures_mono (detachRx_disciplined h1 v1) fun _ t2 ⟨h2, cfg2, v2⟩ => ?_)
  rw [← cfg2]
  refine ensures_bind.mpr (ensures_mono (dropTxBuffers_disciplined h2 v2) fun _ t3 ⟨h3, _, _⟩ => ?_)
  refine ensures_of_run (run_seq (st32_ier t3 (hasReserved_zero _)) (run_seq (st32_ier _ (hasReserved_zero _))
    (run_seq (update_run _ _) (run_done _ _)))) ((masked_disciplined h3).congr (controlPart_attached (by simp)))

end

/-! ### ATTACH -/

section
variable {c : Params} {s : State}

theorem unseen_bind {x : Op α} {f : α → Op β} (h : x.unseen F) (k : ∀ a, (f a).unseen F) :
    (x.bind f).unseen F := fun s =>
  ensures_bind.mpr (ensures_mono (h s) fun a t e => ensures_mono (k a t) fun _ _ e' => e'.trans e)

theorem unseen_faultIf {b : Bool} {r : Fault} (h : F (.fault r)) : (faultIf b r).unseen F := fun _ =>
  ensures_faultIf (fun _ => h) fun _ => rfl

/-- ATTACH's checks look at the parameters only, and fault with `BaseAlign` or `Overlap` (R192). -/
theorem unseen_attachChecks : (attachChecks c).unseen Lawful := by
  have hal : Lawful (.fault .baseAlign) := by simp [Lawful]
  have hov : Lawful (.fault .overlap) := by simp [Lawful]
  refine unseen_bind (fun s => ensures_forEach_keep rfl fun n _ t e => ?_) fun _ => unseen_faultIf hov
  exact ensures_mono (unseen_bind (unseen_faultIf hal) (fun _ => unseen_faultIf hov) t) fun _ _ e' => e'.trans e

/-- The registers as ATTACH leaves them, the bases and interrupt enables apart (R192, R342). -/
structure Quiesced (c : Params) (s : State) : Prop where
  cfg : s.cfg = c
  disabled : ∀ d n, laneEnabled s d n = false
  notInReset : ∀ d n, laneInReset s d n = false
  bufSz : s.bufSz = c.sizeClass
  rxTimeout : s.rxTimeout = c.timeoutValue

/-- `BUF_SZ` set. -/
def State.withBufSz (s : State) (v : Word) : State := { s with bufSz := v }

/-- `RX_TIMEOUT` set. -/
def State.withRxTimeout (s : State) (v : Word) : State := { s with rxTimeout := v }

@[simp] theorem withBufSz_cfg (s : State) (v : Word) : (s.withBufSz v).cfg = s.cfg := rfl
@[simp] theorem withBufSz_bufSz (s : State) (v : Word) : (s.withBufSz v).bufSz = v := rfl
@[simp] theorem withBufSz_bank (s : State) (v : Word) (d : Dir) : (s.withBufSz v).bank d = s.bank d := by
  cases d <;> rfl
@[simp] theorem withRxTimeout_cfg (s : State) (v : Word) : (s.withRxTimeout v).cfg = s.cfg := rfl
@[simp] theorem withRxTimeout_bufSz (s : State) (v : Word) : (s.withRxTimeout v).bufSz = s.bufSz := rfl
@[simp] theorem withRxTimeout_rxTimeout (s : State) (v : Word) : (s.withRxTimeout v).rxTimeout = v := rfl
@[simp] theorem withRxTimeout_bank (s : State) (v : Word) (d : Dir) : (s.withRxTimeout v).bank d = s.bank d := by
  cases d <;> rfl

/-- ATTACH may write `BUF_SZ`, since no lane is enabled (R124). -/
theorem st32_bufSz_disabled {v : Word} (h : ∀ d, (s.bank d).en = 0) (hv : v = s.cfg.sizeClass) :
    (st32 .bufSz v).run s = .ok () ((boundary s).withBufSz v) := by
  refine st32_bufSz s ?_ hv
  rw [show s.tx.en = 0 from h .tx, show s.rx.en = 0 from h .rx]
  simp

theorem st32_rxTimeout_run (s : State) (v : Word) :
    (st32 .rxTimeout v).run s = .ok () ((boundary s).withRxTimeout v) := st32_rxTimeout v s

theorem attachConfigure_quiesces (hc : s.cfg = c) : (attachConfigure c).ensures F s fun _ => Quiesced c := by
  subst hc
  refine ensures_of_run (run_seq (st32_ier _ (by simp)) (run_seq (st32_ier _ (by simp)) (run_seq (st32_en _ (by simp))
    (run_seq (st32_en _ (by simp)) (run_seq (st32_bufSz_disabled ?_ (by simp)) (run_seq (st32_rxTimeout_run _ _)
    (run_seq (st32_rst _ (by simp)) (run_seq (st32_rst _ (by simp)) (run_seq (st32_rst _ (by simp))
    (st32_rst _ (by simp))))))))))) ?_
  · intro d
    cases d <;> simp [withEn_bank_other]
  · refine ⟨by simp, fun d n => ?_, fun d n => ?_, by simp, by simp⟩
    · cases d <;> simp [laneEnabled, assertReset_bank_other, withEn_bank_other]
    · cases d <;> simp [laneInReset, assertReset_bank_other, withEn_bank_other]

/-- A lane's bases as ATTACH programs them (R192). -/
def Based (c : Params) (s : State) (n : Lane) : Prop :=
  (s.bank .tx).base[n.val] = 0 ∧ (s.bank .rx).base[n.val] = c.rxBufPhys[n.val]

theorem attachBases (hs : Quiesced c s) (hal : ∀ n, c.hasLane n = true → aligned c c.rxBufPhys[n.val] = true) :
    (forEach c.lanes (attachBase c)).ensures F s fun _ t =>
      Quiesced c t ∧ ∀ n, c.hasLane n = true → Based c t n := by
  refine forEach_lanes_settle (Q := fun n t => Based c t n) hs fun n t hn ht => ?_
  obtain ⟨cfg, disabled, notInReset, bufSz, rxTimeout⟩ := ht
  refine ensures_of_run (run_seq (st32_base t (disabled .tx n) (aligned_zero _)) (st32_base _ ?_ ?_)) ⟨?_, ?_, ?_⟩
  · simpa [laneEnabled] using disabled .rx n
  · simpa [cfg] using hal n hn
  · exact ⟨by simpa using cfg, fun d m => by simpa [laneEnabled] using disabled d m,
      fun d m => by simpa [laneInReset] using notInReset d m, by simpa using bufSz, by simpa using rxTimeout⟩
  · simp [Based, withBase_bank_other]
  · intro m _ hmn ⟨htx, hrx⟩
    simp [Based, withBase_bank_other, lane_set_other _ _ hmn, htx, hrx]

/-- The registers as ATTACH leaves them (R192). -/
structure Ready (c : Params) (s : State) : Prop where
  quiesced : Quiesced c s
  based : ∀ n, c.hasLane n = true → Based c s n
  ier : ∀ d, (s.bank d).ier = laneMask c

theorem attachInterrupts_ready (hs : Quiesced c s) (based : ∀ n, c.hasLane n = true → Based c s n) :
    (attachInterrupts c).ensures F s fun _ => Ready c := by
  obtain ⟨cfg, disabled, notInReset, bufSz, rxTimeout⟩ := hs
  refine ensures_of_run (run_seq (st32_isr _ _ _) (run_seq (st32_isr _ _ _) (run_seq (st32_ier _ (by simp [cfg]))
    (st32_ier _ (by simp [cfg]))))) ⟨⟨?_, ?_, ?_, ?_, ?_⟩, ?_, ?_⟩
  · simpa using cfg
  · exact fun d m => by simpa [laneEnabled] using disabled d m
  · exact fun d m => by simpa [laneInReset] using notInReset d m
  · simpa using bufSz
  · simpa using rxTimeout
  · exact fun n hn => by simpa [Based] using based n hn
  · exact fun d => by cases d <;> simp [withIer_bank_other]

/-- Only the registers matter. -/
theorem Ready.congr {t : State} (h : Ready c s) (cfg : t.cfg = s.cfg) (bufSz : t.bufSz = s.bufSz)
    (rxTimeout : t.rxTimeout = s.rxTimeout) (bank : ∀ d, (t.bank d).controlPart = (s.bank d).controlPart) :
    Ready c t := by
  obtain ⟨⟨hcfg, disabled, notInReset, hbufSz, hrxTimeout⟩, based, ier⟩ := h
  have en : ∀ d, (t.bank d).en = (s.bank d).en := fun d => by
    have := congrArg Bank.en (bank d)
    exact this
  have rst : ∀ d, (t.bank d).rst = (s.bank d).rst := fun d => by
    have := congrArg Bank.rst (bank d)
    exact this
  have base : ∀ d, (t.bank d).base = (s.bank d).base := fun d => by
    have := congrArg Bank.base (bank d)
    exact this
  refine ⟨⟨cfg.trans hcfg, fun d n => ?_, fun d n => ?_, bufSz.trans hbufSz, rxTimeout.trans hrxTimeout⟩,
    fun n hn => ?_, fun d => ?_⟩
  · rw [laneEnabled, en]
    exact disabled d n
  · rw [laneInReset, rst]
    exact notInReset d n
  · rw [Based, base, base]
    exact based n hn
  · exact (congrArg Bank.ier (bank d)).trans (ier d)

theorem Ready.boundary (h : Ready c s) : Ready c (boundary s) :=
  h.congr (boundary_cfg s) (boundary_bufSz s) (boundary_rxTimeout s) fun d => by
    simp [Bank.controlPart]

theorem clearEntries (hs : Ready c s) (d : Dir) (I : State → Prop) (hI : I s)
    (kept : ∀ n t, I t → I ((Machine.boundary t).setChan d n Chan.reset)) :
    (forEach c.lanes (clearEntry d)).ensures F s fun _ t =>
      (Ready c t ∧ I t) ∧ ∀ n, c.hasLane n = true → t.chan d n = Chan.reset := by
  refine forEach_lanes_settle (I := fun t => Ready c t ∧ I t) (Q := fun n t => t.chan d n = Chan.reset) ⟨hs, hI⟩
    fun n t _ ⟨ht, hIt⟩ => ensures_of_run (clearEntry_run d n t) ⟨⟨?_, kept n t hIt⟩, ?_, fun m _ _ hm => ?_⟩
  · exact ht.boundary.congr (by simp) (by simp) (by simp) fun _ => by simp
  · simp
  · rw [setChan_chan]
    split
    · rfl
    · simpa using hm

/-- What ATTACH leaves meets the invariants of R49. -/
theorem Ready.disciplined (h : Ready c s) (rings : receiveRingsOk c = true)
    (chans : ∀ d n, c.hasLane n = true → s.chan d n = Chan.reset)
    (bufs : ∀ n, c.hasLane n = true → s.txBuf[n.val] = 0) : Disciplined s := by
  obtain ⟨⟨cfg, disabled, notInReset, bufSz, rxTimeout⟩, based, ier⟩ := h
  subst cfg
  refine ⟨fun d n hn => ?_, rings, fun n hn ho => ?_, fun _ => ier, bufSz, rxTimeout⟩
  · obtain ⟨htx, hrx⟩ := based n hn
    have base : (s.bank d).base[n.val] = s.buf d n := by
      cases d with
      | tx => exact htx.trans (bufs n hn).symm
      | rx => exact hrx
    have hal : aligned s.cfg (s.buf d n) = true := by
      cases d with
      | tx => rw [show s.buf .tx n = 0 from bufs n hn, aligned_zero]
      | rx => exact (mem_rxRings rings hn).1
    have chan : (laneView s d n).chan = Chan.reset := chans d n hn
    refine ⟨?_, notInReset d n, fun hr => ?_, base, hal, fun ho => ?_⟩
    · rw [chan]
      exact iff_of_false nofun (by rw [show (laneView s d n).enabled = false from disabled d n]; nofun)
    · rw [chan] at hr
      exact absurd rfl hr
    · rw [chan] at ho
      cases ho
  · rw [chans .tx n hn] at ho
    cases ho

theorem attachTables_disciplined (h : Ready c s) (rings : receiveRingsOk c = true) :
    (attachTables c).ensures F s fun _ => Disciplined := by
  refine ensures_bind.mpr (ensures_mono (clearEntries h .tx (fun _ => True) trivial fun _ _ _ => trivial)
    fun _ t1 ⟨⟨h1, _⟩, tx1⟩ => ?_)
  refine ensures_bind.mpr (ensures_mono (clearEntries h1 .rx (fun t => ∀ n, c.hasLane n = true →
    t.chan .tx n = Chan.reset) tx1 fun n t ht m hm => ?_) fun _ t2 ⟨⟨h2, tx2⟩, rx2⟩ => ?_)
  · simpa [setChan_chan] using ht m hm
  have chans2 : ∀ d n, c.hasLane n = true → t2.chan d n = Chan.reset := fun d => by
    cases d
    · exact tx2
    · exact rx2
  refine ensures_bind.mpr (ensures_mono (forEach_lanes_settle
    (I := fun t => Ready c t ∧ ∀ d n, c.hasLane n = true → t.chan d n = Chan.reset)
    (Q := fun n t => t.txBuf[n.val] = 0) ⟨h2, chans2⟩ fun n t hn ⟨ht, chans⟩ =>
      ensures_of_run (clearTxBuf_run n t) ⟨⟨?_, ?_⟩, by simp, fun m _ hmn hm => ?_⟩)
    fun _ t3 ⟨⟨h3, chans3⟩, bufs3⟩ => ensures_update.mpr ?_)
  · exact ht.boundary.congr rfl rfl rfl fun d => by simp
  · exact fun d m hm => by simpa using chans d m hm
  · simpa [lane_set_other _ _ hmn] using hm
  · refine Ready.disciplined (h3.boundary.congr rfl rfl rfl fun d => by cases d <;> rfl) rings (fun d n hn => ?_)
      fun n hn => ?_
    · exact (by cases d <;> rfl : _ = (boundary t3).chan d n).trans ((boundary_chan ..).trans (chans3 d n hn))
    · exact (congrArg (fun v : Vector Word 32 => v[n.val]) (boundary_txBuf t3)).trans (bufs3 n hn)

theorem attach_disciplined (h : Disciplined s) : attachBody.ensures Lawful s fun _ => Disciplined := by
  refine ensures_bind.mpr (ensures_params.mpr (ensures_bind.mpr (ensures_lookAttached.mpr (ensures_bind.mpr
    (ensures_faultIf (fun _ => by simp [Lawful]) fun _ => ?_)))))
  refine h.after_unseen unseen_attachChecks fun _ t1 _ e => ?_
  refine ensures_bind.mpr (ensures_mono (attachConfigure_quiesces (control_cfg e)) fun _ t2 h2 => ?_)
  refine ensures_bind.mpr (ensures_mono (attachBases h2 fun n hn => (mem_rxRings h.ringsOk hn).1)
    fun _ t3 ⟨h3, based⟩ => ?_)
  refine ensures_bind.mpr (ensures_mono (attachInterrupts_ready h3 based) fun _ t4 h4 => ?_)
  exact ensures_bind.mpr (ensures_mono (attachTables_disciplined h4 h.ringsOk) fun _ _ ht => ht)

end

/-! ### Every command -/

/-- Every command is a body that keeps the invariants of R49, and its `Result`. -/
theorem commandOf_sound {i : Instr} {x : Op Unit} (h : commandOf i = some x) :
    ∃ body : Op Ret, body.sound ∧ x = commandProgram i body := by
  have attached : ∀ {body : Op Ret}, body.sound → ∃ b : Op Ret, b.sound ∧
      attachedProgram i body = commandProgram i b := fun hb =>
    ⟨_, fun s hs => ensures_attachedOnly (by simp [Lawful]) fun _ => hb s hs, rfl⟩
  have lane : ∀ (f : LaneField) {body : Lane → Op Ret},
      (∀ s n, Sound s → s.cfg.hasLane n = true → (body n).ensures Lawful s fun _ => Disciplined) →
      ∃ b : Op Ret, b.sound ∧ laneProgram i f body = commandProgram i b := fun f _ hb =>
    attached fun s hs => ensures_laneBody (fun _ => hs.disciplined) fun n hn => hb s n hs hn
  cases i <;> simp only [commandOf, Option.some.injEq, reduceCtorEq] at h <;> subst h
  case attach => exact ⟨_, fun s hs => attach_disciplined hs.disciplined, rfl⟩
  case detach => exact attached fun s hs => detach_disciplined hs.disciplined
  case claimTx f owner cb addr => exact lane f fun s n => claimTx_disciplined owner cb addr
  case claimRx f owner cb => exact lane f fun s n hs => claimRx_disciplined owner cb hs.disciplined
  case trigger d f => exact lane f fun s n => trigger_disciplined
  case stop d f => exact lane f fun s n hs => stop_disciplined hs.disciplined
  case pause d f => exact lane f fun s n hs => pause_disciplined hs.disciplined
  case release d f => exact lane f fun s n hs => release_disciplined hs.disciplined
  case updsw d f val => exact lane f fun s n hs => updsw_disciplined val hs.disciplined
  case rdhw d f => exact lane f fun s n hs => rdhw_disciplined hs.disciplined
  case dispatch => exact attached fun s hs => dispatch_disciplined hs.disciplined
  case rxdrain f =>
    exact lane f fun s n hs hn => rxdrain_disciplined hs.parts hs.disciplined hn (hs.tables.startedOwned .rx n)
  case txprod f count data => exact lane f fun s n hs => txprod_disciplined count data hs.parts hs.disciplined
  case txcomp f => exact lane f fun s n hs => txcomp_disciplined hs.parts hs.disciplined
  case work d f => exact lane f fun s n => work_disciplined

theorem CommandInv.sound {s : State} (h : CommandInv s) : Sound s := by
  obtain ⟨core, disciplined⟩ := commandInv_iff.mp h
  exact ⟨core.parts, core.tables, disciplined⟩

/-- Settles O56: each command keeps `CoreInv`, as every instruction does, and its body keeps what `CommandInv` asks
beyond that, stopping only as R357 says. -/
theorem commandsKeepDiscipline : Obligations.CommandsKeepDiscipline := by
  intro s i hs hi
  obtain ⟨x, hx⟩ := commandOf_of_isCommand hi
  obtain ⟨body, hb, rfl⟩ := commandOf_sound hx
  have begun : Sound (beginCommand i s) :=
    hs.sound.congr (coreParts_stepClosed.books s (some (i, 0)) [] s.inbox s.sched s.readData hs.core.parts)
      (controlPart_beginCommand i s)
  obtain ⟨next, fault, refused⟩ := runCommand_ensures (hb _ begun)
  rw [exec_command hx]
  refine ⟨fun t ht => ?_, fault, refused⟩
  obtain ⟨r, u, hu, rfl⟩ := next t ht
  exact commandInv_iff.mpr ⟨exec_coreInv hs.core (by rw [exec_command hx]; exact ht), hu.congr (by simp)⟩

end Sys2Proof.Machine
end

section
/-! Register accesses as the decoder sees them (30_encoding R91 to R95, 20_memory R67): which offsets are mapped, and
what a step answers to a packet that is no instruction. -/

namespace Sys2Proof.Machine

/-! ### The fields of an access word -/

/-- The byte offset of an access word, without field `W` (R91). -/
def accessAddress (w : BitVec 13) : Nat := (w.extractLsb' 0 12).toNat

theorem accessGroup_eq (w : BitVec 13) : accessGroup w = accessAddress w / 32 := by
  simp only [accessGroup, accessAddress, BitVec.extractLsb'_toNat]
  omega

theorem accessOffset_eq (w : BitVec 13) : accessOffset w = accessAddress w % 32 := by
  simp only [accessOffset, accessAddress, BitVec.extractLsb'_toNat]
  omega

theorem accessOffset_mod_four (w : BitVec 13) : accessOffset w % 4 = accessAddress w % 4 := by
  rw [accessOffset_eq]; omega

/-! ### The mapped offsets -/

/-- A register has this offset: a global one, or one of a lane that exists (R92, R93). -/
def MappedOffset (c : Params) (off : Nat) : Prop :=
  off ∈ [0x00, 0x04, 0x08, 0x0C, 0x20, 0x24, 0x30, 0x34, 0x38, 0x3C] ∨
    ∃ n : Lane, c.hasLane n = true ∧ ∃ r ∈ [0x40, 0x44, 0x48, 0x50, 0x54, 0x58], off = r + 0x20 * n.val

theorem decodeGroup0_isSome (b : Bool) (v : Word) (k : Nat) :
    (decodeGroup0 b v k).isSome = true ↔ k ∈ [0x00, 0x04, 0x08, 0x0C] := by
  unfold decodeGroup0; split <;> simp_all

theorem decodeGroup1_isSome (b : Bool) (v : Word) (k : Nat) :
    (decodeGroup1 b v k).isSome = true ↔ k ∈ [0x00, 0x04, 0x10, 0x14, 0x18, 0x1C] := by
  unfold decodeGroup1; split <;> simp_all

theorem decodeLaneGroup_isSome (b : Bool) (n : Lane) (v : Word) (k : Nat) :
    (decodeLaneGroup b n v k).isSome = true ↔ k ∈ [0x00, 0x04, 0x08, 0x10, 0x14, 0x18] := by
  unfold decodeLaneGroup; split <;> simp_all

/-- The decoder knows the registers of R92 and R93 and no others (R94). -/
theorem decodeGroup_isSome (c : Params) (b : Bool) (v : Word) (off : Nat) :
    (decodeGroup c.numLanes b (off / 32) v (off % 32)).isSome = true ↔ MappedOffset c off := by
  simp only [MappedOffset, hasLane_iff, List.mem_cons, List.not_mem_nil, or_false, exists_eq_or_imp,
    exists_eq_left]
  unfold decodeGroup
  split
  next h =>
    simp only [decodeGroup0_isSome, List.mem_cons, List.not_mem_nil, or_false]
    omega
  next h0 =>
    split
    next h =>
      simp only [decodeGroup1_isSome, List.mem_cons, List.not_mem_nil, or_false]
      omega
    next h1 =>
      split
      next hn =>
        simp only [decodeLaneGroup_isSome, List.mem_cons, List.not_mem_nil, or_false]
        constructor
        · exact fun h => .inr ⟨⟨off / 32 - 2, by omega⟩, hn, by simp only; omega⟩
        · rintro (h | ⟨n, -, h⟩) <;> omega
      next hn =>
        simp only [Option.isSome_none, Bool.false_eq_true, false_iff]
        omega

/-! ### What a register access decodes to (R94; the width first, log 13) -/

theorem decodeMmio_width {N : Fin 33} {width : AccessWidth} (h : width ≠ .w32) (w : BitVec 13) (v : Word) :
    decodeMmio N width w v = .error .registerWidth := if_pos h

theorem decodeMmio_misaligned {N : Fin 33} {w : BitVec 13} (h : accessAddress w % 4 ≠ 0) (v : Word) :
    decodeMmio N .w32 w v = .error .misalignedRegister := by
  rw [← accessOffset_mod_four] at h
  simp [decodeMmio, h]

theorem MappedOffset.aligned {c : Params} {off : Nat} (h : MappedOffset c off) : off % 4 = 0 := by
  simp only [MappedOffset, List.mem_cons, List.not_mem_nil, or_false] at h
  omega

theorem decodeMmio_unmapped {c : Params} {w : BitVec 13} (ha : accessAddress w % 4 = 0)
    (h : ¬ MappedOffset c (accessAddress w)) (v : Word) :
    decodeMmio c.numLanes .w32 w v = .error .unmappedRegister := by
  rw [← decodeGroup_isSome c (accessIsWrite w) v, Option.not_isSome_iff_eq_none] at h
  rw [← accessOffset_mod_four] at ha
  rw [← accessGroup_eq, ← accessOffset_eq] at h
  simp [decodeMmio, ha, h]

theorem decodeMmio_mapped {c : Params} {w : BitVec 13} (h : MappedOffset c (accessAddress w)) (v : Word) :
    ∃ i, decodeMmio c.numLanes .w32 w v = .ok i := by
  obtain ⟨i, hi⟩ := Option.isSome_iff_exists.mp ((decodeGroup_isSome c (accessIsWrite w) v _).mpr h)
  have ha := h.aligned
  rw [← accessOffset_mod_four] at ha
  rw [← accessGroup_eq, ← accessOffset_eq] at hi
  exact ⟨i, by simp [decodeMmio, ha, hi]⟩

/-! ### The step -/

/-- The control unit's turn, with no command half done, rejects a packet that is no instruction, at either pace
(R95, R101). -/
theorem step_rejected {s : State} {p : Packet} {rest : List Packet} {e : DecodeError}
    (hf : s.faulted = none) (hr : s.refused = false) (hc : s.cur = none) (hm : controlMoves s = true)
    (hi : s.inbox = p :: rest) (hd : decode s.cfg.numLanes p = .error e) : step s = rejected e := by
  cases hp : s.pace with
  | atomic => rw [step_control hf hr hp hm]; simp [controlTurn, hc, hi, takePacket, hd]
  | command => rw [step_command hf hr hp]; simp [commandStep, hc, hi, takePacket, hd]

/-- Settles O4: the decoder looks at the width, then at the alignment, then for the register, and the step answers
its error. -/
theorem illegalAccessWordsFault : Obligations.IllegalAccessWordsFault := by
  intro s width w v rest hf hr hc hm hi
  have fault : ∀ e, decodeMmio s.cfg.numLanes width w v = .error e → step s = rejected e :=
    fun _ => step_rejected hf hr hc hm hi
  refine ⟨fun h => fault _ (decodeMmio_width h w v), ?_, ?_, ?_⟩
  · rintro rfl ha
    exact fault _ (decodeMmio_misaligned ha v)
  · rintro rfl ha hu
    exact fault _ (decodeMmio_unmapped ha hu v)
  · rintro rfl h
    exact decodeMmio_mapped h v

end Sys2Proof.Machine
end

section
/-! System memory (20_memory R67, R72): the lane agents change it by received bytes only (41_engine R162), and of the
commands only TXPROD and transmit WORK store to it (43_ring_protocol R255). -/

namespace Sys2Proof.Machine

/-! ### Memory changes by received bytes only -/

/-- The history grew, and memory changed only if a received byte is among the new events. -/
def ReceivedOnly (s t : State) : Prop :=
  ∃ es, t.hist = s.hist ++ es ∧ ((∀ n b, Event.lineRx n b ∉ es) → t.mem = s.mem)

theorem ReceivedOnly.of_mem {s t : State} (hist : ∃ es, t.hist = s.hist ++ es) (mem : t.mem = s.mem) :
    ReceivedOnly s t :=
  let ⟨es, h⟩ := hist
  ⟨es, h, fun _ => mem⟩

theorem ReceivedOnly.refl (s : State) : ReceivedOnly s s := .of_mem ⟨[], by simp⟩ rfl

theorem ReceivedOnly.trans {s t u : State} (h : ReceivedOnly s t) (k : ReceivedOnly t u) : ReceivedOnly s u := by
  obtain ⟨a, ha, ma⟩ := h
  obtain ⟨b, hb, mb⟩ := k
  refine ⟨a ++ b, by rw [hb, ha, List.append_assoc], fun unreceived => ?_⟩
  have ht : t.mem = s.mem := ma fun n x hx => unreceived n x (List.mem_append_left b hx)
  have hu : u.mem = t.mem := mb fun n x hx => unreceived n x (List.mem_append_right a hx)
  exact hu.trans ht

/-- The receive byte step stores the byte that its event names; no other lane agent stores (R162, R164). -/
theorem laneStep_receivedOnly (s : State) (l : LaneStep) : ReceivedOnly s (laneStep s l) := by
  have grows := (laneStep_frame s l).kept.hist
  cases l with
  | rxByte n b =>
    simp only [laneStep, rxByteStep]
    split
    · exact ⟨[.lineRx n b], rfl, fun unreceived => absurd (List.mem_singleton.mpr rfl) (unreceived n b)⟩
    · exact .refl s
  | txByte n =>
    refine .of_mem grows ?_
    simp only [laneStep, txByteStep]; split <;> rfl
  | status d n =>
    refine .of_mem grows ?_
    simp only [laneStep, statusStep]; cases d <;> split <;> rfl
  | corrupt d n v =>
    refine .of_mem grows ?_
    simp only [laneStep, corruptStep]; split <;> simp

theorem laneSteps_receivedOnly (l : List LaneStep) : ∀ s, ReceivedOnly s (laneSteps s l) := by
  induction l with
  | nil => exact .refl
  | cons a l ih => exact fun s => (laneStep_receivedOnly s a).trans (ih _)

theorem interleave_receivedOnly (s : State) : ReceivedOnly s (interleave s) := by
  unfold interleave
  split
  · exact .refl s
  · exact laneSteps_receivedOnly _ _

theorem boundary_receivedOnly (s : State) : ReceivedOnly s (boundary s) := interleave_receivedOnly s

/-! ### Pieces that store nothing -/

/-- No micro-step of a piece changes memory. -/
def Op.storeless {α : Type} (x : Op α) : Prop := ∀ c, x.each c fun s t => t.mem = s.mem

section
variable {α β : Type}

theorem storeless_done (a : α) : (Op.done a).storeless := fun _ => trivial

theorem storeless_bind {x : Op α} {f : α → Op β} (h : x.storeless) (k : ∀ a, (f a).storeless) :
    (x.bind f).storeless := fun c => each_bind (h c) fun a => k a c

theorem storeless_params {f : Params → Op β} (h : ∀ c, (f c).storeless) : (params.bind f).storeless :=
  fun c => each_params (h c c)

theorem storeless_lookAttached {f : Bool → Op β} (h : ∀ b, (f b).storeless) :
    (lookAttached.bind f).storeless := fun c => each_lookAttached fun b => h b c

theorem storeless_lookChan {d : Dir} {n : Lane} {f : Chan → Op β} (h : ∀ e, (f e).storeless) :
    ((lookChan d n).bind f).storeless := fun c => each_lookChan fun e => h e c

theorem storeless_lookBuf {d : Dir} {n : Lane} {f : Word → Op β} (h : ∀ a, (f a).storeless) :
    ((lookBuf d n).bind f).storeless := fun c => each_lookBuf fun a => h a c

theorem storeless_lookFits {a : Word} {f : Bool → Op β} (h : ∀ b, (f b).storeless) :
    ((lookFits a).bind f).storeless := fun c => each_lookFits fun b => h b c

theorem storeless_ite {p : Prop} [Decidable p] {x y : Op α} (h : x.storeless) (k : y.storeless) :
    (if p then x else y).storeless := by split <;> assumption

theorem storeless_opWhen (b : Bool) {x : Op Unit} (h : x.storeless) : (opWhen b x).storeless :=
  fun c => each_opWhen fun _ => h c

theorem storeless_faultIf (b : Bool) (r : Fault) : (faultIf b r).storeless := fun _ => each_faultIf b r

theorem storeless_forEach {ι : Type} (l : List ι) {f : ι → Op Unit} (h : ∀ a, (f a).storeless) :
    (forEach l f).storeless := fun c => each_forEach l fun a => h a c

theorem storeless_update {f : State → State} (h : ∀ s, (f s).mem = s.mem) : (update f).storeless :=
  fun _ => ⟨fun s x t _ e => by cases e; exact h s, fun _ => trivial⟩

theorem storeless_emit (e : Event) : (emit e).storeless := storeless_update fun s => log_mem s e

theorem storeless_updateChan (d : Dir) (n : Lane) (f : Chan → Chan) : (updateChan d n f).storeless :=
  storeless_update fun s => setChan_mem s d n _

theorem storeless_ld32 (r : Reg) : (ld32 r).storeless := fun _ =>
  ⟨fun s x t _ e => by cases e; cases r <;> rfl, fun _ => trivial⟩

theorem storeless_st32 (r : Reg) (v : Word) : (st32 r v).storeless := fun _ =>
  each_st32 fun _ _ _ h => let ⟨_, _, mem, _⟩ := regWrite_kept h; mem

theorem storeless_drawAccepted (k : Nat) : (drawAccepted k).storeless := fun _ =>
  ⟨fun s x t _ e => by cases e; rfl, fun _ => trivial⟩

theorem storeless_readRingByte (d : Dir) (n : Lane) (i : Nat) : (readRingByte d n i).storeless :=
  fun _ => each_mono readRingByte_same fun _ _ e => congrArg State.mem e

theorem storeless_readRing (d : Dir) (n : Lane) (mask start k : Nat) :
    ∀ j, (readRing d n mask start j k).storeless := by
  induction k with
  | zero => exact fun j => storeless_done []
  | succ k ih =>
    exact fun j => storeless_bind (storeless_readRingByte d n _) fun _ =>
      storeless_bind (ih _) fun _ => storeless_done _

end

/-! ### The shared sequences -/

theorem storeless_setEn (d : Dir) (n : Lane) : (setEn d n).storeless :=
  storeless_params fun _ => storeless_bind (storeless_ld32 _) fun _ => storeless_st32 _ _

theorem storeless_clrEn (d : Dir) (n : Lane) : (clrEn d n).storeless :=
  storeless_params fun _ => storeless_bind (storeless_ld32 _) fun _ => storeless_st32 _ _

theorem storeless_pulse (d : Dir) (n : Lane) : (pulse d n).storeless :=
  storeless_bind (storeless_st32 _ _) fun _ => storeless_st32 _ _

theorem storeless_clearTxBuf (n : Lane) : (clearTxBuf n).storeless := storeless_update fun _ => rfl

theorem storeless_zeroPointerRegs (n : Lane) (d : Dir) : (zeroPointerRegs n d).storeless := by
  cases d <;> exact storeless_bind (storeless_st32 _ _) fun _ => storeless_st32 _ _

theorem storeless_stopSequence (d : Dir) (n : Lane) : (stopSequence d n).storeless :=
  storeless_bind (storeless_clrEn d n) fun _ => storeless_bind (storeless_pulse d n) fun _ =>
    storeless_bind (storeless_zeroPointerRegs n d) fun _ => storeless_lookBuf fun _ =>
      storeless_bind (storeless_st32 _ _) fun _ => storeless_bind (storeless_updateChan _ _ _) fun _ =>
        storeless_updateChan _ _ _

theorem storeless_emitOwned (d : Dir) (n : Lane) (e : Owner → Event) : (emitOwned d n e).storeless :=
  storeless_lookChan fun entry => by
    cases entry.slot with
    | free => exact storeless_done ()
    | owned => exact storeless_emit _

theorem storeless_corruptPath (d : Dir) (n : Lane) : (corruptPath d n).storeless :=
  storeless_bind (storeless_emit _) fun _ => storeless_bind (storeless_stopSequence d n) fun _ =>
    storeless_bind (storeless_emitOwned d n _) fun _ => storeless_done _

theorem storeless_recheck (d : Dir) (n : Lane) (v : Word) : (recheck d n v).storeless :=
  storeless_bind (storeless_ld32 _) fun _ => storeless_opWhen _ (storeless_updateChan _ _ _)

/-! ### The commands' bodies, all but TXPROD and transmit WORK -/

theorem storeless_attachChecks (c : Params) : (attachChecks c).storeless :=
  storeless_bind (storeless_forEach _ fun _ => storeless_bind (storeless_faultIf _ _) fun _ =>
    storeless_faultIf _ _) fun _ => storeless_faultIf _ _

theorem storeless_attachConfigure (c : Params) : (attachConfigure c).storeless := by
  unfold attachConfigure
  iterate 9 refine storeless_bind (storeless_st32 _ _) fun _ => ?_
  exact storeless_st32 _ _

theorem storeless_attachBase (c : Params) (n : Lane) : (attachBase c n).storeless :=
  storeless_bind (storeless_st32 _ _) fun _ => storeless_st32 _ _

theorem storeless_attachInterrupts (c : Params) : (attachInterrupts c).storeless := by
  unfold attachInterrupts
  iterate 3 refine storeless_bind (storeless_st32 _ _) fun _ => ?_
  exact storeless_st32 _ _

theorem storeless_attachTables (c : Params) : (attachTables c).storeless :=
  storeless_bind (storeless_forEach _ fun _ => storeless_updateChan _ _ _) fun _ =>
    storeless_bind (storeless_forEach _ fun _ => storeless_updateChan _ _ _) fun _ =>
      storeless_bind (storeless_forEach _ storeless_clearTxBuf) fun _ => storeless_update fun _ => rfl

theorem storeless_attachBody : attachBody.storeless :=
  storeless_params fun c => storeless_lookAttached fun _ => storeless_bind (storeless_faultIf _ _) fun _ =>
    storeless_bind (storeless_attachChecks c) fun _ => storeless_bind (storeless_attachConfigure c) fun _ =>
      storeless_bind (storeless_forEach _ (storeless_attachBase c)) fun _ =>
        storeless_bind (storeless_attachInterrupts c) fun _ =>
          storeless_bind (storeless_attachTables c) fun _ => storeless_done _

theorem storeless_dropTxBuffer (n : Lane) : (dropTxBuffer n).storeless :=
  storeless_bind (storeless_st32 _ _) fun _ => storeless_clearTxBuf n

theorem storeless_detachLane (d : Dir) (n : Lane) : (detachLane d n).storeless :=
  storeless_bind (storeless_stopSequence d n) fun _ => storeless_updateChan _ _ _

theorem storeless_detachBody : detachBody.storeless :=
  storeless_params fun _ => storeless_bind (storeless_forEach _ (storeless_detachLane .tx)) fun _ =>
    storeless_bind (storeless_forEach _ (storeless_detachLane .rx)) fun _ =>
      storeless_bind (storeless_forEach _ storeless_dropTxBuffer) fun _ =>
        storeless_bind (storeless_st32 _ _) fun _ => storeless_bind (storeless_st32 _ _) fun _ =>
          storeless_bind (storeless_update fun _ => rfl) fun _ => storeless_done _

theorem storeless_claimRxBody (owner : Owner) (cb : Callback) (n : Lane) : (claimRxBody owner cb n).storeless :=
  storeless_params fun _ => storeless_lookChan fun _ => storeless_ite (storeless_done _)
    (storeless_bind (storeless_updateChan _ _ _) fun _ => storeless_done _)

theorem storeless_claimTxBody (owner : Owner) (cb : Callback) (addr : Word) (n : Lane) :
    (claimTxBody owner cb addr n).storeless :=
  storeless_params fun _ => storeless_lookChan fun _ => storeless_ite (storeless_done _)
    (storeless_bind (storeless_faultIf _ _) fun _ => storeless_lookFits fun _ =>
      storeless_bind (storeless_faultIf _ _) fun _ => storeless_bind (storeless_st32 _ _) fun _ =>
        storeless_bind (storeless_update fun _ => rfl) fun _ =>
          storeless_bind (storeless_updateChan _ _ _) fun _ => storeless_done _)

theorem storeless_triggerIdle (n : Lane) (d : Dir) : (triggerIdle n d).storeless := by
  cases d with
  | tx =>
    exact storeless_lookChan fun _ => storeless_bind (storeless_pulse _ n) fun _ =>
      storeless_bind (storeless_st32 _ _) fun _ => storeless_bind (storeless_st32 _ _) fun _ =>
        storeless_bind (storeless_setEn _ n) fun _ => storeless_updateChan _ _ _
  | rx =>
    exact storeless_bind (storeless_pulse _ n) fun _ => storeless_bind (storeless_st32 _ _) fun _ =>
      storeless_bind (storeless_st32 _ _) fun _ => storeless_bind (storeless_updateChan _ _ _) fun _ =>
        storeless_bind (storeless_setEn _ n) fun _ => storeless_updateChan _ _ _

theorem storeless_triggerOwned (d : Dir) (n : Lane) (r : RunState) : (triggerOwned d n r).storeless := by
  cases r with
  | idle => exact storeless_bind (storeless_triggerIdle n d) fun _ => storeless_done _
  | armed => exact storeless_done _
  | paused =>
    exact storeless_bind (storeless_bind (storeless_setEn d n) fun _ => storeless_updateChan _ _ _) fun _ =>
      storeless_done _

theorem storeless_triggerBody (d : Dir) (n : Lane) : (triggerBody d n).storeless :=
  storeless_lookChan fun _ => storeless_ite (storeless_triggerOwned d n _) (storeless_done _)

theorem storeless_stopBody (d : Dir) (n : Lane) : (stopBody d n).storeless :=
  storeless_bind (storeless_stopSequence d n) fun _ => storeless_done _

theorem storeless_pauseBody (d : Dir) (n : Lane) : (pauseBody d n).storeless :=
  storeless_lookChan fun _ => storeless_ite (storeless_bind (storeless_clrEn d n) fun _ =>
    storeless_bind (storeless_updateChan _ _ _) fun _ => storeless_done _) (storeless_done _)

theorem storeless_releaseBuffer (n : Lane) (d : Dir) : (releaseBuffer n d).storeless := by
  cases d with
  | tx => exact storeless_dropTxBuffer n
  | rx => exact storeless_done ()

theorem storeless_releaseBody (d : Dir) (n : Lane) : (releaseBody d n).storeless :=
  storeless_lookChan fun _ => storeless_ite (storeless_bind (storeless_stopSequence d n) fun _ =>
    storeless_bind (storeless_releaseBuffer n d) fun _ => storeless_bind (storeless_updateChan _ _ _) fun _ =>
      storeless_done _) (storeless_done _)

theorem storeless_updswBody (d : Dir) (val : Word) (n : Lane) : (updswBody d val n).storeless :=
  storeless_params fun _ => storeless_lookChan fun _ => storeless_ite (storeless_done _)
    (storeless_ite (storeless_bind (storeless_updateChan _ _ _) fun _ =>
      storeless_bind (storeless_st32 _ _) fun _ => storeless_done _) (storeless_done _))

theorem storeless_rdhwBody (d : Dir) (n : Lane) : (rdhwBody d n).storeless :=
  storeless_params fun _ => storeless_bind (storeless_ld32 _) fun _ =>
    storeless_ite (storeless_done _) (storeless_corruptPath d n)

theorem storeless_drainBytes (n : Lane) (mask tail avail : Nat) (h : Word) :
    (drainBytes n mask tail avail h).storeless :=
  storeless_bind (storeless_readRing _ n _ _ _ _) fun _ => storeless_bind (storeless_drawAccepted _) fun _ =>
    storeless_bind (storeless_opWhen _ (storeless_bind (storeless_emitOwned _ n _) fun _ =>
      storeless_emitOwned _ n _)) fun _ => storeless_bind (storeless_updateChan _ _ _) fun _ =>
        storeless_bind (storeless_st32 _ _) fun _ => storeless_bind (storeless_recheck _ n _) fun _ =>
          storeless_done _

theorem storeless_drainFrom (n : Lane) (mask tail : Nat) (h : Word) : (drainFrom n mask tail h).storeless :=
  storeless_bind (storeless_updateChan _ _ _) fun _ =>
    storeless_ite (storeless_done _) (storeless_drainBytes n _ _ _ h)

theorem storeless_rxdrainBody (n : Lane) : (rxdrainBody n).storeless :=
  storeless_lookChan fun _ => storeless_ite (storeless_done _) (storeless_params fun _ =>
    storeless_bind (storeless_ld32 _) fun _ => storeless_lookChan fun _ =>
      storeless_ite (storeless_drainFrom n _ _ _) (storeless_corruptPath _ n))

theorem storeless_completeTo (n : Lane) (r : Word) : (completeTo n r).storeless :=
  storeless_bind (storeless_updateChan _ _ _) fun _ =>
    storeless_bind (storeless_lookChan fun _ => storeless_opWhen _ (storeless_st32 _ _)) fun _ =>
      storeless_bind (storeless_recheck _ n _) fun _ => storeless_done _

theorem storeless_txcompBody (n : Lane) : (txcompBody n).storeless :=
  storeless_lookChan fun _ => storeless_ite (storeless_done _) (storeless_params fun _ =>
    storeless_bind (storeless_ld32 _) fun _ => storeless_lookChan fun _ =>
      storeless_ite (storeless_completeTo n _) (storeless_corruptPath _ n))

theorem storeless_workBody_rx (n : Lane) : (workBody .rx n).storeless :=
  storeless_lookChan fun _ => storeless_ite (storeless_bind (storeless_updateChan _ _ _) fun _ =>
    storeless_rxdrainBody n) (storeless_done _)

theorem storeless_invokeCallback (d : Dir) (n : Lane) (v : Nat) : (invokeCallback d n v).storeless :=
  storeless_lookChan fun entry => by
    cases entry.slot with
    | free => exact storeless_updateChan _ _ _
    | owned => exact storeless_bind (storeless_emit _) fun _ => storeless_updateChan _ _ _

theorem storeless_completeArmed (d : Dir) (n : Lane) : (completeArmed d n).storeless :=
  storeless_params fun _ => storeless_bind (storeless_ld32 _) fun _ => storeless_ite (storeless_invokeCallback d n _)
    (storeless_bind (storeless_corruptPath d n) fun _ => storeless_done _)

theorem storeless_defensive (d : Dir) (n : Lane) : (defensive d n).storeless :=
  storeless_lookChan fun _ => storeless_bind (storeless_emit _) fun _ => storeless_bind (storeless_clrEn d n) fun _ =>
    storeless_opWhen _ (storeless_params fun _ => storeless_bind (storeless_ld32 _) fun _ =>
      storeless_opWhen _ (storeless_updateChan _ _ _))

theorem storeless_serviceLane (d : Dir) (v : Word) (n : Lane) : (serviceLane d v n).storeless :=
  storeless_opWhen _ (storeless_bind (storeless_st32 _ _) fun _ => storeless_lookChan fun _ =>
    storeless_ite (storeless_completeArmed d n) (storeless_defensive d n))

theorem storeless_dispatchBody : dispatchBody.storeless :=
  storeless_params fun _ => storeless_bind (storeless_ld32 _) fun _ => storeless_bind (storeless_ld32 _) fun _ =>
    storeless_bind (storeless_opWhen _ (storeless_emit _)) fun _ =>
      storeless_bind (storeless_opWhen _ (storeless_emit _)) fun _ =>
        storeless_ite (storeless_bind (storeless_emit _) fun _ => storeless_done _)
          (storeless_bind (storeless_forEach _ (storeless_serviceLane .tx _)) fun _ =>
            storeless_bind (storeless_forEach _ (storeless_serviceLane .rx _)) fun _ => storeless_done _)

/-! ### Whole commands -/

theorem storeless_commandProgram (i : Instr) {body : Op Ret} (h : body.storeless) :
    (commandProgram i body).storeless :=
  storeless_bind h fun r => storeless_update fun s => endCommand_mem i r s

theorem storeless_attachedProgram (i : Instr) {body : Op Ret} (h : body.storeless) :
    (attachedProgram i body).storeless :=
  storeless_commandProgram i (storeless_lookAttached fun _ => storeless_ite h fun _ => trivial)

theorem storeless_laneProgram (i : Instr) (f : LaneField) {body : Lane → Op Ret} (h : ∀ n, (body n).storeless) :
    (laneProgram i f body).storeless :=
  storeless_attachedProgram i (storeless_params fun c => by
    cases laneOf c f with
    | none => exact storeless_done _
    | some n => exact h n)

/-- Of the commands only TXPROD and transmit WORK store (R255, R262). -/
theorem commandOf_storeless {i : Instr} {x : Op Unit} (h : commandOf i = some x)
    (txprod : ∀ f count data, i ≠ .txprod f count data) (work : ∀ f, i ≠ .work .tx f) : x.storeless := by
  cases i <;> simp only [commandOf, Option.some.injEq, reduceCtorEq] at h <;> subst h
  case attach => exact storeless_commandProgram _ storeless_attachBody
  case detach => exact storeless_attachedProgram _ storeless_detachBody
  case claimTx => exact storeless_laneProgram _ _ (storeless_claimTxBody _ _ _)
  case claimRx => exact storeless_laneProgram _ _ (storeless_claimRxBody _ _)
  case trigger => exact storeless_laneProgram _ _ (storeless_triggerBody _)
  case stop => exact storeless_laneProgram _ _ (storeless_stopBody _)
  case pause => exact storeless_laneProgram _ _ (storeless_pauseBody _)
  case release => exact storeless_laneProgram _ _ (storeless_releaseBody _)
  case updsw => exact storeless_laneProgram _ _ (storeless_updswBody _ _)
  case rdhw => exact storeless_laneProgram _ _ (storeless_rdhwBody _)
  case dispatch => exact storeless_attachedProgram _ storeless_dispatchBody
  case rxdrain => exact storeless_laneProgram _ _ storeless_rxdrainBody
  case txprod f count data => exact absurd rfl (txprod f count data)
  case txcomp => exact storeless_laneProgram _ _ storeless_txcompBody
  case work d f =>
    cases d
    · exact absurd rfl (work f)
    · exact storeless_laneProgram _ _ storeless_workBody_rx

/-! ### Through an instruction -/

theorem each_and {α : Type} {c : Params} {R S : State → State → Prop} {x : Op α} (h : x.each c R)
    (k : x.each c S) : x.each c fun s t => R s t ∧ S s t := by
  induction x with
  | done a => trivial
  | stop r => trivial
  | config g ih => exact ih c h k
  | look g m ih => exact fun x => ih x (h x) (k x)
  | access g m ih =>
    exact ⟨fun s x t hs e => ⟨h.1 s x t hs e, k.1 s x t hs e⟩, fun x => ih x (h.2 x) (k.2 x)⟩

/-- While a piece that stores nothing runs, memory changes by received bytes only. -/
theorem storeless_run {α : Type} {x : Op α} {s : State} (h : x.storeless) (k : x.effects s.cfg) :
    ReceivedOnly s (final (x.run s)) := by
  have := each_run (R := fun a b => b.cfg = a.cfg ∧ ReceivedOnly a b)
    (each_mono (each_and (h s.cfg) k) fun _ _ e => ⟨e.2.kept.cfg, .of_mem e.2.kept.hist e.1⟩)
    (fun a => ⟨rfl, .refl a⟩) (fun a b => ⟨b.1.trans a.1, a.2.trans b.2⟩)
    (fun a => ⟨boundary_cfg a, boundary_receivedOnly a⟩) (fun a => a.1) s rfl
  exact this.2

theorem runCommand_receivedOnly {i : Instr} {x : Op Unit} {s t : State} (hx : x.storeless)
    (he : x.effects s.cfg) (h : runCommand i x s = .next t) : ReceivedOnly s t := by
  have := storeless_run (s := beginCommand i s) hx he
  rw [outcomeOf_next h] at this
  exact this

theorem directRead_receivedOnly {r : Reg} {s t : State} (h : directRead r s = .next t) : ReceivedOnly s t := by
  cases h
  refine (boundary_receivedOnly s).trans (.of_mem ⟨[], ?_⟩ ?_) <;> cases r <;> simp [afterRead]

theorem directWrite_receivedOnly {r : Reg} {v : Word} {s t : State} (h : directWrite r v s = .next t) :
    ReceivedOnly s t := by
  obtain ⟨kept, -, mem, -⟩ := regWrite_kept (directWrite_next h)
  exact (boundary_receivedOnly s).trans (.of_mem kept.hist mem)

/-- Every instruction but TXPROD and transmit WORK changes memory by received bytes only. -/
theorem exec_receivedOnly {i : Instr} {s t : State} (h : exec i s = .next t)
    (txprod : ∀ f count data, i ≠ .txprod f count data) (work : ∀ f, i ≠ .work .tx f) : ReceivedOnly s t := by
  obtain ⟨x, hx, e⟩ | ⟨-, ⟨r, e⟩ | ⟨r, v, e⟩⟩ := exec_cases i
  · exact runCommand_receivedOnly (commandOf_storeless hx txprod work) (commandOf_effects hx) (e s ▸ h)
  · exact directRead_receivedOnly (e s ▸ h)
  · exact directWrite_receivedOnly (e s ▸ h)

/-- Settles O59: a byte reads as last written, and the events of an instruction tell whether memory may have
changed. -/
theorem memoryFrame : Obligations.MemoryFrame := by
  refine ⟨fun m a x b hm => memRead_memWrite hm a b x, ?_⟩
  intro i s t es h hist unreceived txprod work
  obtain ⟨es', hist', mem⟩ := exec_receivedOnly h txprod work
  obtain rfl : es' = es := List.append_cancel_left (hist'.symm.trans hist)
  exact mem unreceived

end Sys2Proof.Machine
end

section
/-! The decoder and the encoder against each other (30_encoding R91 to R101): a word is read as its fields, each
half of the decoder is inverted once, and the encoder's words have the fields that the decoder looks for. -/

namespace Sys2Proof.Machine

/-! ### The fields of an access word, put together and taken apart (R91) -/

theorem accessWord_eq (w : BitVec 13) : w.toNat = 4096 * (accessIsWrite w).toNat + accessAddress w := by
  have lt := w.isLt
  simp only [accessIsWrite, accessAddress, BitVec.extractLsb'_toNat, BitVec.getLsbD, Nat.toNat_testBit]
  omega

/-- Below bit 12 stands the offset, in bit 12 whether the access writes. -/
theorem accessFields_ofNat {b : Bool} {off : Nat} (h : off < 4096) :
    accessIsWrite (BitVec.ofNat 13 (4096 * b.toNat + off)) = b ∧
      accessAddress (BitVec.ofNat 13 (4096 * b.toNat + off)) = off := by
  have word := accessWord_eq (BitVec.ofNat 13 (4096 * b.toNat + off))
  have low : accessAddress (BitVec.ofNat 13 (4096 * b.toNat + off)) < 4096 := BitVec.isLt _
  have hb := b.toNat_le
  rw [BitVec.toNat_ofNat, Nat.mod_eq_of_lt (by omega)] at word
  have write : (accessIsWrite (BitVec.ofNat 13 (4096 * b.toNat + off))).toNat = b.toNat := by omega
  refine ⟨?_, by omega⟩
  rw [← Bool.ofNat_toNat (accessIsWrite _), write, Bool.ofNat_toNat]

theorem packetWord_encodeRead {off : Nat} (h : off < 4096) : packetWord (encodeRead off) = off := by
  simp only [encodeRead, packetWord, BitVec.toNat_ofNat]; omega

theorem packetWord_encodeWrite {off : Nat} (h : off < 4096) (v : Word) :
    packetWord (encodeWrite off v) = 4096 + off := by
  simp only [encodeWrite, packetWord, BitVec.toNat_ofNat]; omega

/-! ### Register accesses (R92 to R95) -/

/-- The decoder reads a register access exactly where the access is 32 bits wide, aligned, and at a register. -/
theorem decodeMmio_eq_ok {N : Fin 33} {width : AccessWidth} {w : BitVec 13} {v : Word} {i : Instr} :
    decodeMmio N width w v = .ok i ↔ width = .w32 ∧ accessAddress w % 4 = 0 ∧
      decodeGroup N (accessIsWrite w) (accessAddress w / 32) v (accessAddress w % 32) = some i := by
  rw [← accessOffset_mod_four, ← accessGroup_eq, ← accessOffset_eq]
  unfold decodeMmio
  split
  next hw => simp [hw]
  next hw =>
    split
    next ha => simp [ha]
    next ha => split <;> simp_all

theorem decode_encodeRead {N : Fin 33} {off : Nat} {i : Instr} (lt : off < 4096) (aligned : off % 4 = 0)
    (h : decodeGroup N false (off / 32) 0 (off % 32) = some i) : decode N (encodeRead off) = .ok i := by
  obtain ⟨write, address⟩ := accessFields_ofNat (b := false) lt
  rw [Bool.toNat_false, Nat.mul_zero, Nat.zero_add] at write address
  exact decodeMmio_eq_ok.mpr ⟨rfl, by rw [address]; exact aligned, by rw [write, address]; exact h⟩

theorem decode_encodeWrite {N : Fin 33} {off : Nat} {v : Word} {i : Instr} (lt : off < 4096)
    (aligned : off % 4 = 0) (h : decodeGroup N true (off / 32) v (off % 32) = some i) :
    decode N (encodeWrite off v) = .ok i := by
  obtain ⟨write, address⟩ := accessFields_ofNat (b := true) lt
  rw [Bool.toNat_true, Nat.mul_one] at write address
  exact decodeMmio_eq_ok.mpr ⟨rfl, by rw [address]; exact aligned, by rw [write, address]; exact h⟩

/-- A lane's register offset lies in the lane's group, group `n + 2` (R93). -/
theorem decodeGroup_laneOffset {N : Fin 33} {n : Lane} (hn : n.val < N.val) {k : Nat} (hk : k < 32) (b : Bool)
    (v : Word) : decodeGroup N b (laneOffset (0x40 + k) n / 32) v (laneOffset (0x40 + k) n % 32) =
      decodeLaneGroup b n v k := by
  have group : laneOffset (0x40 + k) n / 32 = n.val + 2 := by simp only [laneOffset]; omega
  have offset : laneOffset (0x40 + k) n % 32 = k := by simp only [laneOffset]; omega
  rw [group, offset]
  simp [decodeGroup, hn]

theorem laneOffset_lt {k : Nat} (hk : k < 32) (n : Lane) : laneOffset (0x40 + k) n < 4096 := by
  simp only [laneOffset]; omega

theorem laneOffset_aligned {k : Nat} (ha : k % 4 = 0) (n : Lane) : laneOffset (0x40 + k) n % 4 = 0 := by
  simp only [laneOffset]; omega

theorem decode_encodeRead_lane {N : Fin 33} {n : Lane} {i : Instr} (k : Nat) (hn : n.val < N.val) (hk : k < 32)
    (ha : k % 4 = 0) (h : decodeLaneGroup false n 0 k = some i) :
    decode N (encodeRead (laneOffset (0x40 + k) n)) = .ok i :=
  decode_encodeRead (laneOffset_lt hk n) (laneOffset_aligned ha n) ((decodeGroup_laneOffset hn hk _ _).trans h)

theorem decode_encodeWrite_lane {N : Fin 33} {n : Lane} {v : Word} {i : Instr} (k : Nat) (hn : n.val < N.val)
    (hk : k < 32) (ha : k % 4 = 0) (h : decodeLaneGroup true n v k = some i) :
    decode N (encodeWrite (laneOffset (0x40 + k) n) v) = .ok i :=
  decode_encodeWrite (laneOffset_lt hk n) (laneOffset_aligned ha n) ((decodeGroup_laneOffset hn hk _ _).trans h)

/-! ### The word and the lane of a decoded register access -/

/-- The encoder writes for `i` the access word of offset `off`, a write where `b`; the register is one of `lane`. -/
structure AccessAt (b : Bool) (off : Nat) (lane : Option Lane) (i : Instr) : Prop where
  word : packetWord (encode i) = 4096 * b.toNat + off
  lane : i.registerLane = lane

/-- A register's read and its write differ in field `W` alone. -/
theorem accessAt_pickAccess {b : Bool} {off : Nat} {lane : Option Lane} {read store : Instr} {v : Word}
    (lt : off < 4096) (hr : encode read = encodeRead off) (hs : encode store = encodeWrite off v)
    (lr : read.registerLane = lane) (ls : store.registerLane = lane) :
    AccessAt b off lane (pickAccess b read store) := by
  cases b with
  | false => exact ⟨by simp [pickAccess, hr, packetWord_encodeRead lt], lr⟩
  | true => exact ⟨by simp [pickAccess, hs, packetWord_encodeWrite lt], ls⟩

theorem decodeGroup0_accessAt {b : Bool} {v : Word} {k : Nat} {i : Instr} (h : decodeGroup0 b v k = some i) :
    AccessAt b k none i := by
  unfold decodeGroup0 at h
  split at h <;> cases h
  all_goals exact accessAt_pickAccess (by decide) rfl rfl rfl rfl

theorem decodeGroup1_accessAt {b : Bool} {v : Word} {k : Nat} {i : Instr} (h : decodeGroup1 b v k = some i) :
    AccessAt b (0x20 + k) none i := by
  unfold decodeGroup1 at h
  split at h <;> cases h
  all_goals exact accessAt_pickAccess (by decide) rfl rfl rfl rfl

theorem decodeLaneGroup_accessAt {b : Bool} {n : Lane} {v : Word} {k : Nat} {i : Instr}
    (h : decodeLaneGroup b n v k = some i) : AccessAt b (laneOffset (0x40 + k) n) (some n) i := by
  unfold decodeLaneGroup at h
  split at h <;> cases h
  all_goals exact accessAt_pickAccess (laneOffset_lt (by decide) n) rfl rfl rfl rfl

/-- What a register access decodes to has the offset of the access, and its lane, if it has one, exists (R94). -/
theorem decodeGroup_accessAt {N : Fin 33} {b : Bool} {v : Word} {off : Nat} {i : Instr}
    (h : decodeGroup N b (off / 32) v (off % 32) = some i) :
    ∃ lane, AccessAt b off lane i ∧ ∀ n ∈ lane, n.val < N.val := by
  unfold decodeGroup at h
  split at h
  next h0 =>
    rw [Nat.mod_eq_of_lt (by omega)] at h
    exact ⟨none, decodeGroup0_accessAt h, nofun⟩
  next h0 =>
    split at h
    next h1 =>
      have hit := decodeGroup1_accessAt h
      rw [show 0x20 + off % 32 = off by omega] at hit
      exact ⟨none, hit, nofun⟩
    next h1 =>
      split at h
      next hn =>
        have hit := decodeLaneGroup_accessAt h
        have offset : laneOffset (0x40 + off % 32) ⟨off / 32 - 2, by omega⟩ = off := by simp only [laneOffset]; omega
        rw [offset] at hit
        exact ⟨_, hit, by rintro _ ⟨⟩; exact hn⟩
      next => cases h

/-! ### Command words (R96 to R101) -/

theorem dirCode_cmdDir (w : Word) : dirCode (cmdDir w) = w.toNat / 16 % 2 := by
  have code : dirCode (cmdDir w) = (w.getLsbD 4).toNat := by
    unfold cmdDir
    cases w.getLsbD 4 <;> rfl
  rw [code, BitVec.getLsbD, Nat.toNat_testBit]

theorem cmdLane_val (w : Word) : (cmdLane w).val = w.toNat / 32 % 32 := rfl

theorem dirCode_le (d : Dir) : dirCode d ≤ 1 := by cases d <;> decide

theorem dirCode_inj {d e : Dir} : dirCode d = dirCode e ↔ d = e := by
  cases d <;> cases e <;> decide

/-- A command word without reserved bits is its three fields. -/
theorem cmdWord_eq {w : Word} (h : cmdReserved w = 0) : encodeCmdWord (cmdOp w) (cmdDir w) (cmdLane w) = w := by
  apply BitVec.eq_of_toNat_eq
  simp only [cmdReserved] at h
  simp only [encodeCmdWord, cmdOp, dirCode_cmdDir, cmdLane_val, BitVec.toNat_ofNat]
  omega

theorem encodeCmdWord_toNat {op : Nat} (h : op < 16) (d : Dir) (n : LaneField) :
    (encodeCmdWord op d n).toNat = op + 16 * dirCode d + 32 * n.val := by
  have := dirCode_le d
  rw [encodeCmdWord, BitVec.toNat_ofNat]
  omega

theorem cmdReserved_encodeCmdWord {op : Nat} (h : op < 16) (d : Dir) (n : LaneField) :
    cmdReserved (encodeCmdWord op d n) = 0 := by
  have := dirCode_le d
  rw [cmdReserved, encodeCmdWord_toNat h]
  omega

theorem cmdOp_encodeCmdWord {op : Nat} (h : op < 16) (d : Dir) (n : LaneField) :
    cmdOp (encodeCmdWord op d n) = op := by
  rw [cmdOp, encodeCmdWord_toNat h]
  omega

theorem cmdDir_encodeCmdWord {op : Nat} (h : op < 16) (d : Dir) (n : LaneField) :
    cmdDir (encodeCmdWord op d n) = d := by
  have := dirCode_le d
  rw [← dirCode_inj, dirCode_cmdDir, encodeCmdWord_toNat h]
  omega

theorem cmdLane_encodeCmdWord {op : Nat} (h : op < 16) (d : Dir) (n : LaneField) :
    cmdLane (encodeCmdWord op d n) = n := by
  have := dirCode_le d
  apply Fin.ext
  rw [cmdLane_val, encodeCmdWord_toNat h]
  omega

theorem decodeCmd_eq_ok {w : Word} {r : OperandRecord} {i : Instr} :
    decodeCmd w r = .ok i ↔ cmdReserved w = 0 ∧ decodeOp (cmdDir w) (cmdLane w) r (cmdOp w) = some i := by
  unfold decodeCmd
  split
  next h => simp [h]
  next h => split <;> simp_all

theorem decodeCmd_eq_illegal {w : Word} {r : OperandRecord} :
    decodeCmd w r = .error .illegalCommand ↔
      cmdReserved w ≠ 0 ∨ decodeOp (cmdDir w) (cmdLane w) r (cmdOp w) = none := by
  unfold decodeCmd
  split
  next h => simp [h]
  next h => split <;> simp_all

theorem decode_encodeCmd {N : Fin 33} {op : Nat} {d : Dir} {n : LaneField} {r : OperandRecord} {i : Instr}
    (lt : op < 16) (h : decodeOp d n r op = some i) : decode N (encodeCmd op d n r) = .ok i := by
  refine decodeCmd_eq_ok.mpr ⟨cmdReserved_encodeCmdWord lt d n, ?_⟩
  rw [cmdDir_encodeCmdWord lt, cmdLane_encodeCmdWord lt, cmdOp_encodeCmdWord lt]
  exact h

theorem noOperands_eq_some {d : Dir} {n : LaneField} {i j : Instr} :
    noOperands d n i = some j ↔ (d = .tx ∧ n = 0) ∧ i = j := by
  simp [noOperands]

theorem onlyDir_eq_some {want d : Dir} {i j : Instr} : onlyDir want d i = some j ↔ d = want ∧ i = j := by
  simp [onlyDir]

theorem noOperands_eq_none {d : Dir} {n : LaneField} {i : Instr} :
    noOperands d n i = none ↔ ¬ (d = .tx ∧ n = 0) := by
  simp [noOperands]

theorem onlyDir_eq_none {want d : Dir} {i : Instr} : onlyDir want d i = none ↔ d ≠ want := by
  simp [onlyDir]

/-- A decoded command has the fields that it was decoded from: the ones that it does not carry were fixed (R99). -/
theorem decodeOp_eq_some {d : Dir} {n : LaneField} {r : OperandRecord} {op : Nat} {i : Instr}
    (h : decodeOp d n r op = some i) :
    packetWord (encode i) = (encodeCmdWord op d n).toNat ∧ i.registerLane = none := by
  unfold decodeOp at h
  split at h
  case h_1 | h_2 | h_10 =>
    obtain ⟨⟨rfl, rfl⟩, rfl⟩ := noOperands_eq_some.mp h
    exact ⟨rfl, rfl⟩
  case h_3 => cases d <;> cases h <;> exact ⟨rfl, rfl⟩
  case h_11 | h_12 | h_13 =>
    obtain ⟨rfl, rfl⟩ := onlyDir_eq_some.mp h
    exact ⟨rfl, rfl⟩
  case h_15 => cases h
  all_goals cases h; exact ⟨rfl, rfl⟩

/-! ### Decoding what was encoded, and what was decoded from -/

/-- Every instruction is read back from its packet, whatever its operands. -/
theorem decode_encode {N : Fin 33} {i : Instr} (exist : ∀ n ∈ i.registerLane, n.val < N.val) :
    decode N (encode i) = .ok i := by
  cases i
  case ld32TxEn | ld32RxEn | ld32BufSz | ld32RxTimeout | ld32TxRst | ld32RxRst | ld32TxIer | ld32TxIsr | ld32RxIer
      | ld32RxIsr => exact decode_encodeRead (by decide) (by decide) rfl
  case st32TxEn | st32RxEn | st32BufSz | st32RxTimeout | st32TxRst | st32RxRst | st32TxIer | st32TxIsr | st32RxIer
      | st32RxIsr => exact decode_encodeWrite (by decide) (by decide) rfl
  case ld32TxRd n => exact decode_encodeRead_lane 0x00 (exist n rfl) (by decide) (by decide) rfl
  case ld32TxWr n => exact decode_encodeRead_lane 0x04 (exist n rfl) (by decide) (by decide) rfl
  case ld32TxBase n => exact decode_encodeRead_lane 0x08 (exist n rfl) (by decide) (by decide) rfl
  case ld32RxRd n => exact decode_encodeRead_lane 0x10 (exist n rfl) (by decide) (by decide) rfl
  case ld32RxWr n => exact decode_encodeRead_lane 0x14 (exist n rfl) (by decide) (by decide) rfl
  case ld32RxBase n => exact decode_encodeRead_lane 0x18 (exist n rfl) (by decide) (by decide) rfl
  case st32TxRd n v => exact decode_encodeWrite_lane 0x00 (exist n rfl) (by decide) (by decide) rfl
  case st32TxWr n v => exact decode_encodeWrite_lane 0x04 (exist n rfl) (by decide) (by decide) rfl
  case st32TxBase n v => exact decode_encodeWrite_lane 0x08 (exist n rfl) (by decide) (by decide) rfl
  case st32RxRd n v => exact decode_encodeWrite_lane 0x10 (exist n rfl) (by decide) (by decide) rfl
  case st32RxWr n v => exact decode_encodeWrite_lane 0x14 (exist n rfl) (by decide) (by decide) rfl
  case st32RxBase n v => exact decode_encodeWrite_lane 0x18 (exist n rfl) (by decide) (by decide) rfl
  all_goals exact decode_encodeCmd (by decide) rfl

/-- A decoded packet carries the word of the encoder, and names no register of a lane that does not exist. -/
theorem decode_eq_ok {N : Fin 33} {p : Packet} {i : Instr} (h : decode N p = .ok i) :
    packetWord p = packetWord (encode i) ∧ ∀ n ∈ i.registerLane, n.val < N.val := by
  cases p with
  | mmio width w v =>
    obtain ⟨-, -, hg⟩ := decodeMmio_eq_ok.mp h
    obtain ⟨lane, ⟨word, rfl⟩, exist⟩ := decodeGroup_accessAt hg
    exact ⟨(accessWord_eq w).trans word.symm, exist⟩
  | cmd w r =>
    obtain ⟨reserved, hop⟩ := decodeCmd_eq_ok.mp h
    obtain ⟨word, lane⟩ := decodeOp_eq_some hop
    rw [cmdWord_eq reserved] at word
    exact ⟨word.symm, by rw [lane]; nofun⟩

theorem registerExists_iff {c : Params} {i : Instr} :
    i.registerExists c = true ↔ ∀ n ∈ i.registerLane, n.val < c.numLanes.val := by
  unfold Instr.registerExists
  split <;> simp [*, hasLane_iff]

/-- Settles O1: the encoder's packet has the fields of the instruction's case of the decoder, and the decoder checks
the lane of a register. -/
theorem decodeEncodeRoundTrip : Obligations.DecodeEncodeRoundTrip := fun _ _ =>
  ⟨fun exist => decode_encode (registerExists_iff.mp exist),
    fun _ h => registerExists_iff.mpr (decode_eq_ok h).2⟩

/-- Settles O2: the decoder looks at every field of a word. -/
theorem eachWordHasOneMeaning : Obligations.EachWordHasOneMeaning := fun _ _ _ h => (decode_eq_ok h).1

/-- Settles O5, by evaluating the decoder. -/
theorem decodedWords : Obligations.DecodedWords := by
  unfold Obligations.DecodedWords
  decide

/-! ### Illegal command words (R99, R101) -/

/-- The operation codes that decode to nothing, over the fields. -/
theorem decodeOp_eq_none {d : Dir} {n : LaneField} {r : OperandRecord} {op : Nat} (lt : op < 16) :
    decodeOp d n r op = none ↔ op = 0x0 ∨ op = 0xF ∨
      ((op = 0x1 ∨ op = 0x2 ∨ op = 0xA) ∧ ¬ (d = .tx ∧ n = 0)) ∨ (op = 0xB ∧ d = .tx) ∨
      ((op = 0xC ∨ op = 0xD) ∧ d = .rx) := by
  unfold decodeOp
  split
  case h_1 | h_2 | h_10 => simp [noOperands_eq_none]
  case h_11 | h_12 | h_13 => cases d <;> simp [onlyDir_eq_none]
  case h_15 =>
    have unused : op = 0x0 ∨ op = 0xF := by grind
    exact iff_of_true rfl (unused.imp_right .inl)
  all_goals simp

theorem cmdReserved_eq_zero (w : Word) : cmdReserved w = 0 ↔ w.extractLsb' 10 22 = 0 := by
  rw [← BitVec.toNat_inj, BitVec.extractLsb'_toNat, cmdReserved]
  simp only [Nat.shiftRight_eq_div_pow, BitVec.toNat_zero, BitVec.ofNat_eq_ofNat]
  omega

theorem cmdOp_eq (w : Word) {k : Nat} (hk : k < 16) : cmdOp w = k ↔ w.extractLsb' 0 4 = BitVec.ofNat 4 k := by
  rw [← BitVec.toNat_inj, BitVec.extractLsb'_toNat, cmdOp, BitVec.toNat_ofNat, Nat.shiftRight_zero]
  omega

theorem cmdDir_eq (w : Word) (d : Dir) : cmdDir w = d ↔ w.extractLsb' 4 1 = BitVec.ofNat 1 (dirCode d) := by
  have := dirCode_le d
  rw [← dirCode_inj, ← BitVec.toNat_inj, BitVec.extractLsb'_toNat, dirCode_cmdDir, BitVec.toNat_ofNat,
    Nat.shiftRight_eq_div_pow]
  omega

/-- The `D` and `LANE` fields of a command word are both 0. -/
theorem cmdDir_cmdLane_eq_zero (w : Word) : (cmdDir w = .tx ∧ cmdLane w = 0) ↔ w.extractLsb' 4 6 = 0 := by
  rw [← dirCode_inj, Fin.ext_iff, cmdLane_val, dirCode_cmdDir, ← BitVec.toNat_inj, BitVec.extractLsb'_toNat]
  simp only [dirCode, Nat.shiftRight_eq_div_pow, BitVec.toNat_zero, BitVec.ofNat_eq_ofNat, Fin.val_zero]
  omega

/-- Settles O3: a command word is illegal by its reserved bits or by the fields of its operation, and the step refuses
what the decoder finds illegal. -/
theorem illegalCommandWordsRefused : Obligations.IllegalCommandWordsRefused := by
  intro N w r
  constructor
  · have lt : cmdOp w < 16 := Nat.mod_lt _ (by decide)
    rw [decode, decodeCmd_eq_illegal, decodeOp_eq_none lt, cmdDir_cmdLane_eq_zero, Ne, cmdReserved_eq_zero]
    simp (disch := decide) only [cmdOp_eq, cmdDir_eq, dirCode, BitVec.ofNat_eq_ofNat, Ne]
  · rintro s rest hf hr hc hm hi rfl hd
    exact step_rejected hf hr hc hm hi hd

end Sys2Proof.Machine
end

section
/-! The host's register accesses (40_registers R121 to R152): a direct access is the micro-step `LD32` or `ST32` of the
commands run alone, so it answers what the rules of `Laws/Op.lean` say; the rules for the writes that stop or are
ignored are added here. -/

namespace Sys2Proof.Machine

/-! ### A direct access is one micro-step (R120) -/

theorem directRead_of_run {r : Reg} {s t : State} {w : Word} (h : (ld32 r).run s = .ok w t) :
    directRead r s = .next { t with readData := some w } := by
  cases h
  rfl

theorem directWrite_eq_run (r : Reg) (v : Word) (s : State) :
    directWrite r v s = outcomeOf ((st32 r v).run s) := by
  simp only [directWrite, st32, Op.run]
  cases regWrite r v (boundary s) <;> rfl

theorem directWrite_of_run {r : Reg} {v : Word} {s t : State} (h : (st32 r v).run s = .ok () t) :
    directWrite r v s = .next t := by
  rw [directWrite_eq_run, h]
  rfl

theorem directWrite_of_stop {r : Reg} {v : Word} {s : State} {e : Stop} (h : regWrite r v (boundary s) = .error e) :
    directWrite r v s = e.outcome := by
  rw [directWrite, h]

/-! ### Bitmask registers: bits 31:N (R38) -/

theorem hasReserved_iff {c : Params} {v : Word} : hasReserved c v = true ↔ v &&& ~~~laneMask c ≠ 0 := by
  simp [hasReserved]

theorem noReserved_iff {c : Params} {v : Word} : hasReserved c v = false ↔ v &&& ~~~laneMask c = 0 := by
  simp [hasReserved]

/-- A register whose write checks bits 31:N (R122, R124, R130 to R134, R138). -/
def Reg.checksReserved : Reg → Bool
  | .en _ | .rst _ | .ier _ => true
  | .isr _ | .bufSz | .rxTimeout | .hw _ _ | .sw _ _ | .base _ _ => false

theorem directWrite_reserved {r : Reg} {v : Word} (s : State) (hr : r.checksReserved = true)
    (hv : hasReserved s.cfg v = true) : directWrite r v s = .fault .reservedBitWrite := by
  refine directWrite_of_stop (e := .fault .reservedBitWrite) ?_
  cases r with
  | en d | rst d | ier d => simp [regWrite, hv]
  | isr d | bufSz | rxTimeout | hw d n | sw d n | base d n => cases hr

/-! ### `BUF_SZ` (R126) -/

theorem directWrite_bufSz_enabled {v : Word} (s : State) (he : (s.tx.en ||| s.rx.en) &&& laneMask s.cfg ≠ 0) :
    directWrite .bufSz v s = .fault .configWhileEnabled :=
  directWrite_of_stop (e := .fault .configWhileEnabled) (if_pos (by simpa using he))

theorem directWrite_bufSz_unknown {v : Word} (s : State) (he : (s.tx.en ||| s.rx.en) &&& laneMask s.cfg = 0)
    (hv : v ≠ s.cfg.sizeClass) : directWrite .bufSz v s = .refused .unknownSizeClass :=
  directWrite_of_stop (e := .refused .unknownSizeClass) (by simp [regWrite, he, hv])

/-! ### Pointers and bases (R142 to R152) -/

section
variable {d : Dir} {n : Lane} {v : Word} (s : State)

theorem directWrite_hw_range (hv : cap s.cfg d ≤ v.toNat) : directWrite (.hw d n) v s = .fault .pointerRange :=
  directWrite_of_stop (e := .fault .pointerRange) (by simp [regWrite, hv])

theorem directWrite_sw_range (hv : cap s.cfg d ≤ v.toNat) : directWrite (.sw d n) v s = .fault .pointerRange :=
  directWrite_of_stop (e := .fault .pointerRange) (by simp [regWrite, hv])

theorem directWrite_hw_enabled (hv : v.toNat < cap s.cfg d) (he : laneEnabled s d n = true) :
    directWrite (.hw d n) v s = .fault .hwPointerWriteWhileEnabled :=
  directWrite_of_stop (e := .fault .hwPointerWriteWhileEnabled) (by simp [regWrite, Nat.not_le.mpr hv, he])

theorem directWrite_base_enabled (he : laneEnabled s d n = true) :
    directWrite (.base d n) v s = .fault .baseWriteWhileEnabled :=
  directWrite_of_stop (e := .fault .baseWriteWhileEnabled) (by simp [regWrite, he])

theorem directWrite_base_align (he : laneEnabled s d n = false) (ha : aligned s.cfg v = false) :
    directWrite (.base d n) v s = .fault .baseAlign :=
  directWrite_of_stop (e := .fault .baseAlign) (by simp [regWrite, he, ha])

/-- A reset that is asserted holds the hardware pointer against a write (R142, R150). -/
theorem st32_hw_inReset (hv : v.toNat < cap s.cfg d) (he : laneEnabled s d n = false)
    (hr : laneInReset s d n = true) : (st32 (.hw d n) v).run s = .ok () (boundary s) := by
  simp [st32, Op.run, regWrite, Except.map, Nat.not_le.mpr hv, he, hr]

/-- A reset that is asserted holds the software pointer against a write (R144, R148). -/
theorem st32_sw_inReset (hv : v.toNat < cap s.cfg d) (hr : laneInReset s d n = true) :
    (st32 (.sw d n) v).run s = .ok () (boundary s) := by
  simp [st32, Op.run, regWrite, Except.map, Nat.not_le.mpr hv, hr]

end

/-! ### `tx_moved` (R130, R176) -/

theorem clearMoved_bit (m : Vector Bool 32) (v : Word) (n : Lane) :
    (clearMoved m v)[n.val] = (!v.getLsbD n.val && m[n.val]) := by
  rw [clearMoved_get, testLane]
  cases v.getLsbD n.val <;> rfl

/-! ### The accesses -/

/-- Settles O20: the pointers are those of `Bank.zeroPointers`, lane by lane. -/
theorem resetRegisterWrites : Obligations.ResetRegisterWrites := by
  intro s v
  constructor
  · intro hv
    have stored (d : Dir) : directWrite (.rst d) v s = .next (assertReset (boundary s) d v) :=
      directWrite_of_run (st32_rst s (noReserved_iff.mpr hv))
    refine ⟨_, _, _, _, _, stored .tx, stored .rx, fun n => ⟨?hwTx, ?swTx, ?moved, ?hwRx, ?swRx⟩⟩
    case hwTx | hwRx => exact zeroPointers_hw _ v n
    case swTx => rw [← boundary_tx_sw]; exact zeroPointers_sw _ v n
    case swRx => rw [← boundary_rx_sw]; exact zeroPointers_sw _ v n
    case moved => exact clearMoved_bit _ v n
  · intro hv
    have faults (d : Dir) : directWrite (.rst d) v s = .fault .reservedBitWrite :=
      directWrite_reserved s rfl (hasReserved_iff.mpr hv)
    exact ⟨faults .tx, faults .rx⟩

/-- Settles O18: each read is its register's rule of `ld32`. -/
theorem registerReads : Obligations.RegisterReads :=
  ⟨fun s =>
    ⟨directRead_of_run (ld32_en .tx s), directRead_of_run (ld32_en .rx s),
      directRead_of_run (ld32_rst .tx s), directRead_of_run (ld32_rst .rx s),
      directRead_of_run (ld32_ier .tx s), directRead_of_run (ld32_ier .rx s),
      directRead_of_run (ld32_isr .tx s), directRead_of_run (ld32_isr .rx s)⟩,
    fun s n =>
    ⟨directRead_of_run (ld32_bufSz s), directRead_of_run (ld32_rxTimeout s),
      directRead_of_run (ld32_hw .tx n s), directRead_of_run (ld32_sw .tx n s),
      directRead_of_run (ld32_base .tx n s), directRead_of_run (ld32_sw .rx n s),
      directRead_of_run (ld32_hw .rx n s), directRead_of_run (ld32_base .rx n s)⟩⟩

/-- Settles O19: the four registers store what passes the check of bits 31:N. -/
theorem enableRegisterWrites : Obligations.EnableRegisterWrites := by
  intro s v
  constructor
  · intro hv
    have clean := noReserved_iff.mpr hv
    exact ⟨directWrite_of_run (st32_en (d := .tx) s clean), directWrite_of_run (st32_en (d := .rx) s clean),
      directWrite_of_run (st32_ier (d := .tx) s clean), directWrite_of_run (st32_ier (d := .rx) s clean)⟩
  · intro hv
    have faults {r : Reg} (hr : r.checksReserved = true) : directWrite r v s = .fault .reservedBitWrite :=
      directWrite_reserved s hr (hasReserved_iff.mpr hv)
    simp only [List.forall_mem_cons]
    exact ⟨faults (r := .en .tx) rfl, faults (r := .en .rx) rfl, faults (r := .ier .tx) rfl,
      faults (r := .ier .rx) rfl, nofun⟩

/-- Settles O21: the write-one-to-clear looks at every bit of the word, those of 31:N as well. -/
theorem statusAcknowledge : Obligations.StatusAcknowledge := fun s v =>
  ⟨_, _, directWrite_of_run (st32_isr .tx v s), directWrite_of_run (st32_isr .rx v s),
    fun k hk => ⟨testLane_writeOneToClear _ v ⟨k, hk⟩, testLane_writeOneToClear _ v ⟨k, hk⟩⟩⟩

/-- Settles O22: the check of the enable bits comes before that of the value (R126). -/
theorem configurationWrites : Obligations.ConfigurationWrites := fun s v =>
  ⟨directWrite_of_run (st32_rxTimeout v s),
    fun he hv => directWrite_of_run (st32_bufSz s he hv),
    directWrite_bufSz_unknown s,
    directWrite_bufSz_enabled s⟩

/-- Settles O23: the write by the register's role, of either direction, then each check in the order of the rules. -/
theorem laneRegisterWrites : Obligations.LaneRegisterWrites := by
  intro s d n v hw sw base
  have hwWrite : exec hw s = directWrite (.hw d n) v s := by cases d <;> rfl
  have swWrite : exec sw s = directWrite (.sw d n) v s := by cases d <;> rfl
  have baseWrite : exec base s = directWrite (.base d n) v s := by cases d <;> rfl
  rw [hwWrite, swWrite, baseWrite]
  refine ⟨?range, ?hwEnabled, ?hwIgnored, ?hwStored, ?swIgnored, ?swStored, ?baseEnabled, ?baseAlign, ?baseStored⟩
  case range => exact fun hv => ⟨directWrite_hw_range s hv, directWrite_sw_range s hv⟩
  case hwEnabled => exact directWrite_hw_enabled s
  case hwIgnored => exact fun hv he hr => directWrite_of_run (st32_hw_inReset s hv he hr)
  case hwStored => exact fun hv he hr => directWrite_of_run (st32_hw s hv he hr)
  case swIgnored => exact fun hv hr => directWrite_of_run (st32_sw_inReset s hv hr)
  case swStored => exact fun hv hr => directWrite_of_run (st32_sw s hv hr)
  case baseEnabled => exact directWrite_base_enabled s
  case baseAlign => exact fun he ha => directWrite_base_align s he (decide_eq_false ha)
  case baseStored => exact fun he ha => directWrite_of_run (st32_base s he (decide_eq_true ha))

end Sys2Proof.Machine
end

section
/-! The lane agents' steps (41_engine R160 to R176), one by one: when each is taken and what it does then. -/

namespace Sys2Proof.Machine

/-! ### What every lane-agent step keeps (R160, R170) -/

/-- One lane-agent step is a slot with that step alone. -/
theorem laneStep_eq_interleave (s : State) (l : LaneStep) :
    laneStep s l = interleave { s with sched := [l] :: s.sched } := rfl

theorem LaneFrame.pending {s t : State} (h : LaneFrame s t) {d : Dir} {n : Lane}
    (hp : sourcePending s d n = true) : sourcePending t d n = true := by
  simp only [sourcePending, Bool.and_eq_true, h.cfg] at hp ⊢
  exact ⟨hp.1, h.isr d n hp.2⟩

theorem LaneFrame.pending_of_inactive {s t : State} (h : LaneFrame s t) {d : Dir} {n : Lane}
    (hn : laneActive s d n = false) : sourcePending t d n = sourcePending s d n := by
  simp only [sourcePending, h.cfg, h.isrInactive d n hn]

/-- Only the receive byte step stores (R162). -/
theorem laneStep_mem {s : State} {l : LaneStep} (h : ∀ n b, l ≠ .rxByte n b) : (laneStep s l).mem = s.mem := by
  cases l with
  | rxByte n b => exact absurd rfl (h n b)
  | txByte n => simp only [laneStep, txByteStep]; split <;> rfl
  | status d n => simp only [laneStep, statusStep]; cases d <;> split <;> rfl
  | corrupt d n v => simp only [laneStep, corruptStep]; split <;> simp

/-- Settles O11: a lane-agent step is a slot of one step, of which the frame says what it leaves. -/
theorem laneAgentsWriteOnlyTheirState : Obligations.LaneAgentsWriteOnlyTheirState := by
  intro s l
  have frame := laneStep_frame s l
  refine ⟨?_, laneSteps_sched [l] s, frame.draws, frame.cur, frame.seen, fun _ _ => frame.pending, frame.hist,
    laneStep_mem⟩
  rw [laneStep_eq_interleave, controlPart_interleave]
  rfl

/-! ### The receive byte step (R162, R163) -/

theorem rxByteEnabled_iff {s : State} {n : Lane} : rxByteEnabled s n = true ↔
    laneActive s .rx n = true ∧ s.rx.hw[n.val].toNat < cap s.cfg .rx ∧
      (s.rx.hw[n.val].toNat + 1) % cap s.cfg .rx ≠ s.rx.sw[n.val].toNat ∧
      s.rx.base[n.val].toNat + s.rx.hw[n.val].toNat < 2 ^ 32 := by
  simp only [rxByteEnabled, Bool.and_eq_true, decide_eq_true_eq, ringAdd_eq_mod, and_assoc]
  rfl

theorem rxByteStep_disabled {s : State} {n : Lane} (h : ¬ rxByteEnabled s n = true) (b : Byte) :
    rxByteStep s n b = s := if_neg h

/-- The advanced hardware pointer, read back from its register. -/
theorem advanced_toNat (c : Params) (d : Dir) (k : Nat) :
    (toWord (ringAdd (ringMask c d) k 1)).toNat = (k + 1) % cap c d := by
  rw [toWord_toNat_of_lt_cap (ringAdd_lt c d k 1), ringAdd_eq_mod]

/-- Settles O12: the step's condition, term by term, and one store into memory. -/
theorem receiveByteStep : Obligations.ReceiveByteStep := by
  intro s n b hm
  constructor
  · intro active inRange notFull address
    have en := rxByteEnabled_iff.mpr ⟨active, inRange, notFull, address⟩
    exact ⟨_, _, advanced_toNat s.cfg .rx _, memRead_memWrite hm _ b, if_pos en⟩
  · intro stuck
    refine rxByteStep_disabled (fun en => ?_) b
    obtain ⟨active, inRange, notFull, address⟩ := rxByteEnabled_iff.mp en
    rcases stuck with h | h | h | h
    · rw [active] at h; cases h
    · omega
    · exact notFull h
    · omega

/-! ### The transmit byte step (R164, R165) -/

theorem txByteEnabled_iff {s : State} {n : Lane} : txByteEnabled s n = true ↔
    laneActive s .tx n = true ∧ s.tx.hw[n.val].toNat < cap s.cfg .tx ∧
      s.tx.sw[n.val].toNat < cap s.cfg .tx ∧ s.tx.hw[n.val] ≠ s.tx.sw[n.val] ∧
      s.tx.base[n.val].toNat + s.tx.hw[n.val].toNat < 2 ^ 32 := by
  simp only [txByteEnabled, Bool.and_eq_true, decide_eq_true_eq, and_assoc]
  rfl

theorem txByteStep_disabled {s : State} {n : Lane} (h : ¬ txByteEnabled s n = true) : txByteStep s n = s :=
  if_neg h

/-- Settles O13: the step's condition, term by term. -/
theorem transmitByteStep : Obligations.TransmitByteStep := by
  intro s n
  constructor
  · intro active hwInRange swInRange unequal address
    have en := txByteEnabled_iff.mpr ⟨active, hwInRange, swInRange, unequal, address⟩
    exact ⟨_, advanced_toNat s.cfg .tx _, if_pos en⟩
  · intro stuck
    refine txByteStep_disabled fun en => ?_
    obtain ⟨active, hwInRange, swInRange, unequal, address⟩ := txByteEnabled_iff.mp en
    rcases stuck with h | h | h | h | h
    · rw [active] at h; cases h
    · omega
    · omega
    · exact unequal h
    · omega

/-! ### The status-set step (R166) -/

theorem statusStep_active {s : State} {d : Dir} {n : Lane} (h : laneActive s d n = true) :
    statusStep s d n = (s.withIsr d (latch (s.bank d).isr n)).withStill d n := by
  refine (if_pos h).trans ?_
  cases d <;> rfl

theorem statusStep_inactive {s : State} {d : Dir} {n : Lane} (h : laneActive s d n = false) :
    statusStep s d n = s := if_neg (by simp [h])

/-- The latched register, bit by bit. -/
theorem latch_getLsbD (isr : Word) (n : Lane) {k : Nat} (hk : k < 32) :
    (latch isr n).getLsbD k = (decide (k = n.val) || isr.getLsbD k) := by
  have bit := testLane_latch isr n ⟨k, hk⟩
  rwa [Bool.or_comm, decide_eq_decide.mpr Fin.ext_iff] at bit

/-- Settles O14: the step latches the lane's bit. -/
theorem statusSetStep : Obligations.StatusSetStep := fun s d n =>
  ⟨fun active => ⟨_, fun _ hk => latch_getLsbD (s.bank d).isr n hk, statusStep_active active⟩,
    statusStep_inactive⟩

/-! ### The hardware-fault step (R172) -/

theorem corruptStep_eq (s : State) (d : Dir) (n : Lane) (v : Word) : corruptStep s d n v =
    if s.cfg.hwMayCorrupt = true ∧ s.cfg.hasLane n = true ∧ laneInReset s d n = false then s.withHw d n v
    else s := by
  simp only [corruptStep, laneInReset, Bool.and_eq_true, Bool.not_eq_true', and_assoc]
  rfl

/-- Settles O16: the step's condition, and the byte steps' own check of the hardware pointer. -/
theorem hardwareFaultStep : Obligations.HardwareFaultStep := by
  intro s d n v
  refine ⟨fun hc hl hr => ?_, fun h => ?_, fun corrupt => ⟨?_, fun b => ?_⟩⟩
  · exact (corruptStep_eq s d n v).trans (if_pos ⟨hc, hl, hr⟩)
  · refine (corruptStep_eq s d n v).trans (if_neg ?_)
    rintro ⟨hc, hl, hr⟩
    simp [hc, hl, hr] at h
  · rintro rfl
    refine txByteStep_disabled fun en => ?_
    obtain ⟨-, inRange, -⟩ := txByteEnabled_iff.mp en
    exact Nat.not_lt.mpr corrupt inRange
  · rintro rfl
    refine rxByteStep_disabled (fun en => ?_) b
    obtain ⟨-, inRange, -⟩ := rxByteEnabled_iff.mp en
    exact Nat.not_lt.mpr corrupt inRange

/-! ### Inactive lanes (R161) -/

/-- The event of a byte that a lane moves over the line (10_state R45). -/
def lineEvent : Dir → Lane → Byte → Event
  | .tx => .lineTx
  | .rx => .lineRx

/-- The lane's agent has moved no byte: `tx_moved` is as before, and no line event of the lane is new. -/
def Unmoved (d : Dir) (n : Lane) (s t : State) : Prop :=
  (d = .tx → t.txMoved[n.val] = s.txMoved[n.val]) ∧
    ∃ es, t.hist = s.hist ++ es ∧ ∀ b, lineEvent d n b ∉ es

section
variable {d : Dir} {n : Lane}

theorem unmoved_of_eq {s t : State} (moved : t.txMoved = s.txMoved) (hist : t.hist = s.hist) :
    Unmoved d n s t :=
  ⟨fun _ => by rw [moved], [], by rw [hist, List.append_nil], fun _ => List.not_mem_nil⟩

theorem Unmoved.trans {s t u : State} (h : Unmoved d n s t) (k : Unmoved d n t u) : Unmoved d n s u := by
  obtain ⟨hm, a, ha, hna⟩ := h
  obtain ⟨km, b, hb, hnb⟩ := k
  refine ⟨fun e => (km e).trans (hm e), a ++ b, by rw [hb, ha, List.append_assoc], fun x hx => ?_⟩
  exact (List.mem_append.mp hx).elim (hna x) (hnb x)

/-- A byte or status step is taken by an active lane, so by another than one that is inactive. -/
theorem laneStep_unmoved {s : State} (h : laneActive s d n = false) (l : LaneStep) :
    Unmoved d n s (laneStep s l) := by
  have other : ∀ {m : Lane}, laneActive s d m = true → n ≠ m := by
    rintro m active rfl
    rw [active] at h
    cases h
  cases l with
  | rxByte m b =>
    simp only [laneStep, rxByteStep]
    split
    next en =>
      obtain ⟨active, -⟩ := rxByteEnabled_iff.mp en
      refine ⟨fun _ => rfl, [.lineRx m b], rfl, fun x => ?_⟩
      cases d with
      | tx => simp [lineEvent]
      | rx => simp [lineEvent, other active]
    next => exact unmoved_of_eq rfl rfl
  | txByte m =>
    simp only [laneStep, txByteStep]
    split
    next en =>
      obtain ⟨active, -⟩ := txByteEnabled_iff.mp en
      cases d with
      | tx => exact ⟨fun _ => lane_set_other _ _ (other active), _, rfl, by simp [lineEvent, other active]⟩
      | rx => exact ⟨nofun, _, rfl, by simp [lineEvent]⟩
    next => exact unmoved_of_eq rfl rfl
  | status e m =>
    simp only [laneStep, statusStep]
    split
    next active =>
      cases e with
      | tx =>
        refine ⟨?_, [], by simp, fun _ => List.not_mem_nil⟩
        rintro rfl
        exact lane_set_other _ _ (other active)
      | rx => exact unmoved_of_eq rfl rfl
    next => exact unmoved_of_eq rfl rfl
  | corrupt e m v =>
    simp only [laneStep, corruptStep]
    split
    · exact unmoved_of_eq (by simp) (by simp)
    · exact unmoved_of_eq rfl rfl

theorem laneSteps_unmoved (l : List LaneStep) :
    ∀ s, laneActive s d n = false → Unmoved d n s (laneSteps s l) := by
  induction l with
  | nil => exact fun s _ => unmoved_of_eq rfl rfl
  | cons a l ih =>
    intro s h
    have still : laneActive (laneStep s a) d n = false := ((laneStep_frame s a).active d n).trans h
    exact (laneStep_unmoved h a).trans (ih _ still)

end

/-- Settles O15: the frame of the lane-agent steps has the pointer and the status bit; `tx_moved` and the line
events follow step by step, the lane staying inactive. -/
theorem inactiveLanesTakeNoStep : Obligations.InactiveLanesTakeNoStep := by
  intro s l d n hc h
  have frame := laneSteps_frame l s
  obtain ⟨moved, es, hist, silent⟩ := laneSteps_unmoved l s h
  refine ⟨frame.hwInactive hc d n h, frame.pending_of_inactive h, moved, es, hist, fun b => ⟨?_, ?_⟩⟩
  · rintro rfl
    exact silent b
  · rintro rfl
    exact silent b

end Sys2Proof.Machine
end

section
/-! Who may clear a status bit (41_engine R170): ATTACH, DISPATCH and a direct write of a 1 to the bit. No micro-step
of another command writes a status register, so every other instruction keeps a status bit that is set. -/

namespace Sys2Proof.Machine

variable {α β : Type} {c : Params}

/-! ### Pieces that write no status register -/

/-- The status registers are as before. -/
def SameStatus (s t : State) : Prop := ∀ d, (t.bank d).isr = (s.bank d).isr

/-- The register is `TX_ISR` or `RX_ISR`. -/
def Reg.isStatus : Reg → Bool
  | .isr _ => true
  | .en _ | .rst _ | .ier _ | .bufSz | .rxTimeout | .hw _ _ | .sw _ _ | .base _ _ => false

theorem setBank_sameStatus {s : State} {d : Dir} {b : Bank} (h : b.isr = (s.bank d).isr) :
    SameStatus s (s.setBank d b) := by
  intro e
  by_cases he : e = d
  · subst he; rw [setBank_bank, h]
  · rw [setBank_bank_other s b he]

theorem assertReset_sameStatus (s : State) (d : Dir) (v : Word) : SameStatus s (assertReset s d v) := by
  intro e
  by_cases he : e = d
  · subst he; simp
  · rw [assertReset_bank_other s v he]

theorem afterRead_sameStatus (r : Reg) (s : State) : SameStatus s (afterRead r s) := by
  cases r <;> exact fun e => by simp [afterRead]

/-- A register write changes a status register only if it is one's. -/
theorem regWrite_sameStatus {r : Reg} {v : Word} {s t : State} (hr : r.isStatus = false)
    (h : regWrite r v s = .ok t) : SameStatus s t := by
  cases r <;> simp only [regWrite] at h <;> (repeat' split at h) <;> cases h
  case isr d => cases hr
  case rst d _ => exact assertReset_sameStatus s d v
  case bufSz | rxTimeout => exact fun e => by cases e <;> rfl
  case en | ier | base => exact setBank_sameStatus rfl
  case hw.isFalse.isFalse.isTrue.refl | sw.isFalse.isTrue.refl => exact fun _ => rfl
  case hw | sw => exact setBank_sameStatus rfl

/-- No micro-step of a piece, with parameters `c`, writes a status register. -/
abbrev Op.sparesStatus (c : Params) (x : Op α) : Prop := x.each c SameStatus

theorem spares_update {f : State → State} (h : ∀ s, SameStatus s (f s)) : (update f).sparesStatus c :=
  ⟨fun s _ _ _ e => by cases e; exact h s, fun _ => trivial⟩

theorem spares_emit (e : Event) : (emit e).sparesStatus c := spares_update fun s d => by rw [log_bank]

theorem spares_updateChan (d : Dir) (n : Lane) (f : Chan → Chan) : (updateChan d n f).sparesStatus c :=
  spares_update fun s e => by rw [setChan_bank]

theorem spares_clearTxBuf (n : Lane) : (clearTxBuf n).sparesStatus c := spares_update fun _ e => by cases e <;> rfl

theorem spares_ld32 (r : Reg) : (ld32 r).sparesStatus c :=
  ⟨fun s _ _ _ e => by cases e; exact afterRead_sameStatus r s, fun _ => trivial⟩

theorem spares_st32 {r : Reg} {v : Word} (hr : r.isStatus = false) : (st32 r v).sparesStatus c :=
  each_st32 fun _ _ _ h => regWrite_sameStatus hr h

theorem spares_drawAccepted (k : Nat) : (drawAccepted k).sparesStatus c :=
  ⟨fun s _ _ _ e => by cases e; exact fun d => by rw [dropAccepted_bank], fun _ => trivial⟩

theorem spares_drawStream : drawStream.sparesStatus c :=
  ⟨fun s _ _ _ e => by cases e; exact fun d => by rw [dropStream_bank], fun _ => trivial⟩

theorem spares_readRing (d : Dir) (n : Lane) (mask start k : Nat) :
    ∀ j, (readRing d n mask start j k).sparesStatus c := by
  induction k with
  | zero => exact fun _ => each_done _
  | succ k ih =>
    refine fun j => each_bind (each_mono readRingByte_same ?_) fun _ => each_bind (ih _) fun _ => each_done _
    rintro s _ rfl
    exact fun _ => rfl

theorem spares_writeRingByte (d : Dir) (n : Lane) (i : Nat) (b : Byte) :
    (writeRingByte d n i b).sparesStatus c := by
  refine ⟨fun s _ _ _ e => ?_, fun _ => trivial⟩
  simp only at e
  split at e
  · cases e
    exact fun d => by cases d <;> rfl
  · cases e

theorem spares_writeRing (d : Dir) (n : Lane) (mask : Nat) (data : List Byte) (start k : Nat) :
    ∀ j, (writeRing d n mask data start j k).sparesStatus c := by
  induction k with
  | zero => exact fun _ => each_done _
  | succ k ih => exact fun j => each_bind (spares_writeRingByte _ _ _ _) fun _ => ih _

/-! ### The shared sequences -/

theorem spares_setEn (d : Dir) (n : Lane) : (setEn d n).sparesStatus c :=
  each_params (each_bind (spares_ld32 _) fun _ => spares_st32 rfl)

theorem spares_clrEn (d : Dir) (n : Lane) : (clrEn d n).sparesStatus c :=
  each_params (each_bind (spares_ld32 _) fun _ => spares_st32 rfl)

theorem spares_pulse (d : Dir) (n : Lane) : (pulse d n).sparesStatus c :=
  each_bind (spares_st32 rfl) fun _ => spares_st32 rfl

theorem spares_zeroPointerRegs (n : Lane) (d : Dir) : (zeroPointerRegs n d).sparesStatus c := by
  cases d <;> exact each_bind (spares_st32 rfl) fun _ => spares_st32 rfl

theorem spares_stopSequence (d : Dir) (n : Lane) : (stopSequence d n).sparesStatus c :=
  each_bind (spares_clrEn d n) fun _ => each_bind (spares_pulse d n) fun _ =>
    each_bind (spares_zeroPointerRegs n d) fun _ => each_lookBuf fun _ => each_bind (spares_st32 rfl) fun _ =>
      each_bind (spares_updateChan _ _ _) fun _ => spares_updateChan _ _ _

theorem spares_emitOwned (d : Dir) (n : Lane) (e : Owner → Event) : (emitOwned d n e).sparesStatus c :=
  each_lookChan fun entry => by
    cases entry.slot with
    | free => exact each_done ()
    | owned => exact spares_emit _

theorem spares_corruptPath (d : Dir) (n : Lane) : (corruptPath d n).sparesStatus c :=
  each_bind (spares_emit _) fun _ => each_bind (spares_stopSequence d n) fun _ =>
    each_bind (spares_emitOwned d n _) fun _ => each_done _

theorem spares_recheck (d : Dir) (n : Lane) (v : Word) : (recheck d n v).sparesStatus c :=
  each_bind (spares_ld32 _) fun _ => each_opWhen fun _ => spares_updateChan _ _ _

theorem spares_triggerIdle (n : Lane) (d : Dir) : (triggerIdle n d).sparesStatus c := by
  cases d with
  | tx =>
    exact each_lookChan fun _ => each_bind (spares_pulse _ n) fun _ => each_bind (spares_st32 rfl) fun _ =>
      each_bind (spares_st32 rfl) fun _ => each_bind (spares_setEn _ n) fun _ => spares_updateChan _ _ _
  | rx =>
    exact each_bind (spares_pulse _ n) fun _ => each_bind (spares_st32 rfl) fun _ =>
      each_bind (spares_st32 rfl) fun _ => each_bind (spares_updateChan _ _ _) fun _ =>
        each_bind (spares_setEn _ n) fun _ => spares_updateChan _ _ _

/-! ### The commands' bodies, all but those of ATTACH and DISPATCH -/

theorem spares_detachBody : detachBody.sparesStatus c := by
  have lane (d : Dir) (n : Lane) : (detachLane d n).sparesStatus c :=
    each_bind (spares_stopSequence d n) fun _ => spares_updateChan _ _ _
  have buffer (n : Lane) : (dropTxBuffer n).sparesStatus c :=
    each_bind (spares_st32 rfl) fun _ => spares_clearTxBuf n
  exact each_params (each_bind (each_forEach _ (lane .tx)) fun _ => each_bind (each_forEach _ (lane .rx)) fun _ =>
    each_bind (each_forEach _ buffer) fun _ => each_bind (spares_st32 rfl) fun _ =>
      each_bind (spares_st32 rfl) fun _ =>
        each_bind (spares_update fun _ d => by cases d <;> rfl) fun _ => each_done _)

theorem spares_claimRxBody (owner : Owner) (cb : Callback) (n : Lane) :
    (claimRxBody owner cb n).sparesStatus c :=
  each_params (each_lookChan fun _ => each_ite (fun _ => each_done _) fun _ =>
    each_bind (spares_updateChan _ _ _) fun _ => each_done _)

theorem spares_claimTxBody (owner : Owner) (cb : Callback) (addr : Word) (n : Lane) :
    (claimTxBody owner cb addr n).sparesStatus c :=
  each_params (each_lookChan fun _ => each_ite (fun _ => each_done _) fun _ =>
    each_bind (each_faultIf _ _) fun _ => each_lookFits fun _ => each_bind (each_faultIf _ _) fun _ =>
      each_bind (spares_st32 rfl) fun _ => each_bind (spares_update fun _ d => by cases d <;> rfl) fun _ =>
        each_bind (spares_updateChan _ _ _) fun _ => each_done _)

theorem spares_triggerBody (d : Dir) (n : Lane) : (triggerBody d n).sparesStatus c :=
  each_lookChan fun entry => each_ite (fun _ => by
    cases entry.run with
    | idle => exact each_bind (spares_triggerIdle n d) fun _ => each_done _
    | armed => exact each_done _
    | paused =>
      exact each_bind (each_bind (spares_setEn d n) fun _ => spares_updateChan _ _ _) fun _ => each_done _)
    fun _ => each_done _

theorem spares_stopBody (d : Dir) (n : Lane) : (stopBody d n).sparesStatus c :=
  each_bind (spares_stopSequence d n) fun _ => each_done _

theorem spares_pauseBody (d : Dir) (n : Lane) : (pauseBody d n).sparesStatus c :=
  each_lookChan fun _ => each_ite (fun _ => each_bind (spares_clrEn d n) fun _ =>
    each_bind (spares_updateChan _ _ _) fun _ => each_done _) fun _ => each_done _

theorem spares_releaseBuffer (n : Lane) (d : Dir) : (releaseBuffer n d).sparesStatus c := by
  cases d with
  | tx => exact each_bind (spares_st32 rfl) fun _ => spares_clearTxBuf n
  | rx => exact each_done ()

theorem spares_releaseBody (d : Dir) (n : Lane) : (releaseBody d n).sparesStatus c :=
  each_lookChan fun _ => each_ite (fun _ => each_bind (spares_stopSequence d n) fun _ =>
    each_bind (spares_releaseBuffer n d) fun _ => each_bind (spares_updateChan _ _ _) fun _ => each_done _)
    fun _ => each_done _

theorem spares_updswBody (d : Dir) (val : Word) (n : Lane) : (updswBody d val n).sparesStatus c :=
  each_params (each_lookChan fun _ => each_ite (fun _ => each_done _) fun _ => each_ite
    (fun _ => each_bind (spares_updateChan _ _ _) fun _ => each_bind (spares_st32 rfl) fun _ => each_done _)
    fun _ => each_done _)

theorem spares_rdhwBody (d : Dir) (n : Lane) : (rdhwBody d n).sparesStatus c :=
  each_params (each_bind (spares_ld32 _) fun _ => each_ite (fun _ => each_done _) fun _ =>
    spares_corruptPath d n)

theorem spares_deliver (n : Lane) (bytes : List Byte) : (deliver n bytes).sparesStatus c :=
  each_bind (spares_emitOwned _ n _) fun _ => spares_emitOwned _ n _

theorem spares_drainBytes (n : Lane) (mask tail avail : Nat) (h : Word) :
    (drainBytes n mask tail avail h).sparesStatus c :=
  each_bind (spares_readRing _ n _ _ _ _) fun _ => each_bind (spares_drawAccepted _) fun _ =>
    each_bind (each_opWhen fun _ => spares_deliver n _) fun _ => each_bind (spares_updateChan _ _ _) fun _ =>
      each_bind (spares_st32 rfl) fun _ => each_bind (spares_recheck _ n _) fun _ => each_done _

theorem spares_drainFrom (n : Lane) (mask tail : Nat) (h : Word) : (drainFrom n mask tail h).sparesStatus c :=
  each_bind (spares_updateChan _ _ _) fun _ => each_ite (fun _ => each_done _) fun _ =>
    spares_drainBytes n _ _ _ h

theorem spares_rxdrainBody (n : Lane) : (rxdrainBody n).sparesStatus c :=
  each_lookChan fun _ => each_ite (fun _ => each_done _) fun _ => each_params (each_bind (spares_ld32 _) fun _ =>
    each_lookChan fun _ => each_ite (fun _ => spares_drainFrom n _ _ _) fun _ => spares_corruptPath _ n)

theorem spares_refillBytes (p : Params) (n : Lane) (entry : Chan) (count k : Nat) (data : List Byte) :
    (refillBytes p n entry count k data).sparesStatus c :=
  each_bind (spares_writeRing _ n _ _ _ _ _) fun _ => each_bind (spares_updateChan _ _ _) fun _ =>
    each_bind (spares_st32 rfl) fun _ => each_bind (each_opWhen fun _ => spares_triggerIdle n .tx) fun _ =>
      each_bind (each_opWhen fun _ => spares_emitOwned _ n _) fun _ =>
        each_bind (each_lookChan fun _ => each_opWhen fun _ => spares_updateChan _ _ _) fun _ => each_done _

theorem spares_txprodBody (count : Nat) (data : List Byte) (n : Lane) :
    (txprodBody count data n).sparesStatus c :=
  each_params (each_lookChan fun _ => each_ite (fun _ => spares_refillBytes _ n _ _ _ _) fun _ => each_done _)

theorem spares_completeTo (n : Lane) (r : Word) : (completeTo n r).sparesStatus c :=
  each_bind (spares_updateChan _ _ _) fun _ =>
    each_bind (each_lookChan fun _ => each_opWhen fun _ => spares_st32 rfl) fun _ =>
      each_bind (spares_recheck _ n _) fun _ => each_done _

theorem spares_txcompBody (n : Lane) : (txcompBody n).sparesStatus c :=
  each_lookChan fun _ => each_ite (fun _ => each_done _) fun _ => each_params (each_bind (spares_ld32 _) fun _ =>
    each_lookChan fun _ => each_ite (fun _ => spares_completeTo n _) fun _ => spares_corruptPath _ n)

theorem spares_workRefill (n : Lane) : (workRefill n).sparesStatus c :=
  each_bind spares_drawStream fun _ => each_lookChan fun _ =>
    each_ite (fun _ => each_bind (spares_txprodBody _ _ n) fun _ => each_done _) fun _ => each_done _

theorem spares_workJob (n : Lane) (d : Dir) : (workJob n d).sparesStatus c := by
  cases d with
  | tx =>
    exact each_bind (spares_txcompBody n) fun _ => each_ite (fun _ => each_done _) fun _ => spares_workRefill n
  | rx => exact spares_rxdrainBody n

theorem spares_workBody (d : Dir) (n : Lane) : (workBody d n).sparesStatus c :=
  each_lookChan fun _ => each_ite (fun _ => each_bind (spares_updateChan _ _ _) fun _ => spares_workJob n d)
    fun _ => each_done _

/-! ### Whole commands -/

theorem spares_attachedProgram (i : Instr) {body : Op Ret} (h : body.sparesStatus c) :
    (attachedProgram i body).sparesStatus c :=
  each_bind (each_lookAttached fun _ => each_ite (fun _ => h) fun _ => each_stop _) fun _ =>
    spares_update fun _ d => by rw [endCommand_bank]

theorem spares_laneProgram (i : Instr) (f : LaneField) {body : Lane → Op Ret}
    (h : ∀ n, (body n).sparesStatus c) : (laneProgram i f body).sparesStatus c :=
  spares_attachedProgram i (each_params (by
    cases laneOf c f with
    | none => exact each_done _
    | some n => exact h n))

/-- Of the commands only ATTACH and DISPATCH write a status register (R192, R280). -/
theorem commandOf_sparesStatus {i : Instr} {x : Op Unit} (h : commandOf i = some x) (attach : i ≠ .attach)
    (dispatch : i ≠ .dispatch) : x.sparesStatus c := by
  cases i <;> simp only [commandOf, Option.some.injEq, reduceCtorEq] at h <;> subst h
  case attach => exact absurd rfl attach
  case dispatch => exact absurd rfl dispatch
  case detach => exact spares_attachedProgram _ spares_detachBody
  case claimTx => exact spares_laneProgram _ _ (spares_claimTxBody _ _ _)
  case claimRx => exact spares_laneProgram _ _ (spares_claimRxBody _ _)
  case trigger => exact spares_laneProgram _ _ (spares_triggerBody _)
  case stop => exact spares_laneProgram _ _ (spares_stopBody _)
  case pause => exact spares_laneProgram _ _ (spares_pauseBody _)
  case release => exact spares_laneProgram _ _ (spares_releaseBody _)
  case updsw => exact spares_laneProgram _ _ (spares_updswBody _ _)
  case rdhw => exact spares_laneProgram _ _ (spares_rdhwBody _)
  case rxdrain => exact spares_laneProgram _ _ spares_rxdrainBody
  case txprod => exact spares_laneProgram _ _ (spares_txprodBody _ _)
  case txcomp => exact spares_laneProgram _ _ spares_txcompBody
  case work => exact spares_laneProgram _ _ (spares_workBody _)

/-! ### Which instruction may clear a status bit -/

/-- The direct write of a direction's status register. -/
def statusWrite (d : Dir) (v : Word) : Instr :=
  match d with
  | .tx => .st32TxIsr v
  | .rx => .st32RxIsr v

/-- The instruction may clear the status bit of lane `(d, n)` (R170). -/
def MayClear (d : Dir) (n : Lane) (i : Instr) : Prop :=
  i = .attach ∨ i = .dispatch ∨ ∃ v, testLane v n = true ∧ i = statusWrite d v

/-- A direct access is a read, a write of another register than a status register, or the write of one of those. -/
theorem exec_direct_status {i : Instr} (h : commandOf i = none) :
    (∃ r, ∀ s, exec i s = directRead r s) ∨
    (∃ r v, (∀ s, exec i s = directWrite r v s) ∧ r.isStatus = false) ∨ ∃ d v, i = statusWrite d v := by
  cases i
  case st32TxIsr v => exact .inr (.inr ⟨.tx, v, rfl⟩)
  case st32RxIsr v => exact .inr (.inr ⟨.rx, v, rfl⟩)
  case st32RxTimeout v => exact .inr (.inl ⟨.rxTimeout, v, fun _ => rfl, rfl⟩)
  case ld32TxEn | ld32RxEn | ld32BufSz | ld32RxTimeout | ld32TxRst | ld32RxRst | ld32TxIer | ld32TxIsr | ld32RxIer
      | ld32RxIsr | ld32TxRd | ld32TxWr | ld32TxBase | ld32RxRd | ld32RxWr | ld32RxBase =>
    exact .inl ⟨_, fun _ => rfl⟩
  case st32TxEn | st32RxEn | st32BufSz | st32TxRst | st32RxRst | st32TxIer | st32RxIer | st32TxRd | st32TxWr
      | st32TxBase | st32RxRd | st32RxWr | st32RxBase =>
    exact .inr (.inl ⟨_, _, fun _ => rfl, rfl⟩)
  all_goals cases h

theorem exec_statusWrite (d : Dir) (v : Word) (s : State) : exec (statusWrite d v) s =
    .next ((boundary s).withIsr d (writeOneToClear ((boundary s).bank d).isr v)) := by
  have direct : exec (statusWrite d v) s = directWrite (.isr d) v s := by cases d <;> rfl
  rw [direct]
  exact directWrite_of_run (st32_isr d v s)

/-! ### A status bit that stays set -/

/-- The status bit of lane `(d, n)` is set after, if it was set before. -/
structure StaysPending (d : Dir) (n : Lane) (s t : State) : Prop where
  cfg : t.cfg = s.cfg
  pending : sourcePending s d n = true → sourcePending t d n = true

section
variable {d : Dir} {n : Lane}

theorem StaysPending.refl (s : State) : StaysPending d n s s := ⟨rfl, id⟩

theorem StaysPending.trans {s t u : State} (h : StaysPending d n s t) (k : StaysPending d n t u) :
    StaysPending d n s u := ⟨k.cfg.trans h.cfg, k.pending ∘ h.pending⟩

theorem SameStatus.staysPending {s t : State} (h : SameStatus s t) (cfg : t.cfg = s.cfg) :
    StaysPending d n s t :=
  ⟨cfg, fun hp => by rwa [sourcePending, cfg, h d]⟩

theorem LaneFrame.staysPending {s t : State} (h : LaneFrame s t) : StaysPending d n s t := ⟨h.cfg, h.pending⟩

theorem boundary_staysPending (s : State) : StaysPending d n s (boundary s) :=
  (interleave_frame s).staysPending.trans
    (SameStatus.staysPending (fun _ => by rw [boundary, advanceCur_bank]) rfl)

theorem noted_staysPending (l : List Datum) (s : State) : StaysPending d n s (noted l s) := by
  obtain ⟨m, h⟩ := noted_eq l s
  rw [h]
  exact SameStatus.staysPending (fun e => by cases e <;> rfl) rfl

/-- A write-one-to-clear keeps the bit of another lane, or where it writes a 0 (R136). -/
theorem withIsr_staysPending {s : State} {e : Dir} {v : Word} (h : e = d → testLane v n = false) :
    StaysPending d n s (s.withIsr e (writeOneToClear (s.bank e).isr v)) := by
  refine ⟨withIsr_cfg s e _, fun hp => ?_⟩
  by_cases he : e = d
  · subst he
    simpa [sourcePending, h rfl] using hp
  · simpa [sourcePending, withIsr_bank_other s e _ (Ne.symm he)] using hp

/-! ### Through an instruction -/

theorem run_staysPending {x : Op α} {s : State} (h : x.each s.cfg (StaysPending d n)) :
    StaysPending d n s (final (x.run s)) :=
  each_run h .refl .trans boundary_staysPending StaysPending.cfg s rfl

theorem micro_staysPending {x : Op Unit} {s t : State} (h : x.each s.cfg (StaysPending d n))
    (e : x.micro s = .next t) : StaysPending d n s t := by
  rcases each_micro h rfl e with ⟨l, rfl⟩ | ⟨l, y, u, hu, rfl⟩
  · exact noted_staysPending l s
  · exact (noted_staysPending l s).trans
      ((boundary_staysPending _).trans (hu.trans (noted_staysPending [y] u)))

theorem commandOf_staysPending {i : Instr} {x : Op Unit} (hx : commandOf i = some x) (hi : ¬ MayClear d n i) :
    x.each c (StaysPending d n) := by
  have spares : x.sparesStatus c :=
    commandOf_sparesStatus hx (fun e => hi (.inl e)) fun e => hi (.inr (.inl e))
  exact each_mono (each_and spares (commandOf_effects hx)) fun _ _ h => h.1.staysPending h.2.kept.cfg

theorem direct_staysPending {i : Instr} {s t : State} (hd : commandOf i = none) (hi : ¬ MayClear d n i)
    (h : exec i s = .next t) : StaysPending d n s t := by
  refine (boundary_staysPending s).trans ?_
  obtain ⟨r, e⟩ | ⟨r, v, e, hr⟩ | ⟨e, v, rfl⟩ := exec_direct_status hd
  · rw [e] at h
    cases h
    have same := afterRead_sameStatus r (boundary s)
    refine SameStatus.staysPending (fun f => ?_) (Effect.read (c := s.cfg) r (boundary s)).kept.cfg
    cases f
    · exact same .tx
    · exact same .rx
  · rw [e] at h
    have write := directWrite_next h
    exact (regWrite_sameStatus hr write).staysPending (regWrite_kept write).1.cfg
  · rw [exec_statusWrite] at h
    cases h
    refine withIsr_staysPending ?_
    rintro rfl
    exact eq_false_of_ne_true fun hv => hi (.inr (.inr ⟨v, hv, rfl⟩))

/-- An instruction that may not clear the bit leaves it set, whatever the lane agents do meanwhile. -/
theorem exec_staysPending {i : Instr} {s t : State} (hi : ¬ MayClear d n i) (h : exec i s = .next t) :
    StaysPending d n s t := by
  cases hx : commandOf i with
  | none => exact direct_staysPending hx hi h
  | some x =>
    rw [exec_command hx] at h
    have hrun := run_staysPending (s := beginCommand i s) (commandOf_staysPending hx hi)
    rw [outcomeOf_next h] at hrun
    have begun : SameStatus s (beginCommand i s) := fun _ => by rw [beginCommand_bank]
    exact (begun.staysPending rfl).trans hrun

end

/-- Settles O17: of the instructions left, none may clear a status bit. -/
theorem statusBitsSurvive : Obligations.StatusBitsSurvive := by
  intro i s t attach dispatch txIsr rxIsr h d n
  refine (exec_staysPending ?_ h).pending
  rintro (e | e | ⟨v, -, e⟩)
  · exact attach e
  · exact dispatch e
  · cases d with
    | tx => exact txIsr v e
    | rx => exact rxIsr v e

end Sys2Proof.Machine
end

section
/-! Fair executions (41_engine R171): a latched completion stays latched through every atomic step that issues no
DISPATCH and no direct write of a 1 to its bit, so the interrupt line stays up, and the host's obligation is a
DISPATCH. -/

namespace Sys2Proof.Machine

section
variable {d : Dir} {n : Lane}

/-! ### A completion that stays latched -/

/-- The lane's status bit is set, and no command half done may clear it. -/
structure Latched (d : Dir) (n : Lane) (s : State) : Prop where
  pending : sourcePending s d n = true
  spared : ∀ i k, s.cur = some (i, k) → ¬ MayClear d n i

theorem latched_between {s : State} (hp : sourcePending s d n = true) (hc : s.cur = none) : Latched d n s :=
  ⟨hp, fun _ _ e => by rw [hc] at e; cases e⟩

theorem Latched.lanes {s t : State} (h : Latched d n s) (f : LaneFrame s t) : Latched d n t :=
  ⟨f.pending h.pending, fun i k e => h.spared i k (f.cur.symm.trans e)⟩

/-- What is left of a command that may not clear the bit leaves it set. -/
theorem pendingProgram_staysPending (s : State) {i : Instr} (hi : ¬ MayClear d n i) :
    (pendingProgram s i).each s.cfg (StaysPending d n) := by
  unfold pendingProgram
  split
  · exact each_resume (commandOf_staysPending ‹_› hi) _
  · exact each_done _

/-- A running command goes on or ends: it does not become another. -/
theorem pendingProgram_micro_cur {s t : State} {i : Instr} {k : Nat} (hc : s.cur = some (i, k))
    (h : (pendingProgram s i).micro s = .next t) : t.cur = none ∨ ∃ m, t.cur = some (i, m) := by
  unfold pendingProgram at h
  split at h
  next x hx =>
    obtain done | closes := closes_resume (commandOf_closes hx) (c := s.cfg) s.seen
    · rw [done] at h
      cases h
      exact .inr ⟨k, hc⟩
    · obtain e | ⟨e, -⟩ := closes_micro closes hc h
      · exact .inr ⟨k + 1, e⟩
      · exact .inl e
  next =>
    cases h
    exact .inr ⟨k, hc⟩

theorem Latched.of_cur {s t : State} {i : Instr} (h : StaysPending d n s t) (hp : sourcePending s d n = true)
    (hi : ¬ MayClear d n i) (hc : t.cur = none ∨ ∃ m, t.cur = some (i, m)) : Latched d n t := by
  refine ⟨h.pending hp, fun j k e => ?_⟩
  obtain hn | ⟨m, hm⟩ := hc
  · rw [hn] at e; cases e
  · rw [hm] at e; cases e; exact hi

/-- A direct register access starts no command. -/
theorem direct_cur {i : Instr} {s t : State} (hd : commandOf i = none) (hc : s.cur = none)
    (h : exec i s = .next t) : t.cur = none := by
  have hb : (boundary s).cur = none := by rw [boundary_cur, hc]; rfl
  obtain ⟨r, e⟩ | ⟨r, v, e⟩ := exec_direct hd
  · rw [e] at h
    cases h
    cases r <;> exact hb
  · rw [e] at h
    obtain ⟨-, -, -, -, -, cur, -⟩ := regWrite_kept (directWrite_next h)
    exact cur.trans hb

/-! ### The control unit's turn -/

/-- The first micro-step of an instruction that may not clear the bit. -/
theorem startInstruction_latched {i : Instr} {s t : State} (hp : sourcePending s d n = true) (hc : s.cur = none)
    (hi : ¬ MayClear d n i) (h : startInstruction i s = .next t) : Latched d n t := by
  cases hx : commandOf i with
  | none =>
    rw [startInstruction_direct hx] at h
    exact latched_between ((exec_staysPending hi h).pending hp) (direct_cur hx hc h)
  | some x =>
    rw [startInstruction_command hx] at h
    have begun : sourcePending (beginCommand i s) d n = true := by
      rwa [sourcePending, beginCommand_cfg, beginCommand_bank]
    refine .of_cur (micro_staysPending (commandOf_staysPending hx hi) h) begun hi ?_
    obtain e | ⟨e, -⟩ := closes_micro (commandOf_closes hx) (beginCommand_cur i s) h
    · exact .inr ⟨_, e⟩
    · exact .inl e

/-- ATTACH stops at once where the block is attached (R192). -/
theorem startInstruction_attach {s : State} (h : s.attached = true) :
    startInstruction .attach s = .fault .alreadyAttached := by
  show Op.micro (Op.bind (Op.bind (faultIf s.attached .alreadyAttached) _) _) _ = _
  rw [h]
  rfl

/-- The control unit's turn: it goes on with the running command, or takes a packet whose instruction may not clear the
bit, an ATTACH apart, or does nothing. -/
theorem controlTurn_latched {s t : State} (h : Latched d n s) (attached : s.attached = true)
    (taken : ∀ p rest i, s.cur = none → s.inbox = p :: rest → decode s.cfg.numLanes p = .ok i →
      MayClear d n i → i = .attach) (e : controlTurn s = .next t) : Latched d n t := by
  cases hc : s.cur with
  | some c =>
    obtain ⟨i, k⟩ := c
    rw [controlTurn_running hc] at e
    have hi := h.spared i k hc
    exact .of_cur (micro_staysPending (pendingProgram_staysPending s hi) e) h.pending hi
      (pendingProgram_micro_cur hc e)
  | none =>
    cases hb : s.inbox with
    | nil =>
      rw [controlTurn, hc, hb] at e
      cases e
      exact h.lanes (interleave_frame s)
    | cons p rest =>
      rw [controlTurn_packet hc hb] at e
      obtain ⟨i, hd, start⟩ := takePacket_next e
      refine startInstruction_latched (s := { s with inbox := rest }) h.pending hc (fun may => ?_) start
      obtain rfl := taken p rest i hc hb hd may
      rw [startInstruction_attach (s := { s with inbox := rest }) attached] at start
      cases start

/-! ### Atomic steps (R72) -/

theorem Latched.step_lane {s t : State} {l : LaneStep} (h : Latched d n s) (pace : s.pace = .atomic)
    (sched : s.sched = [[l]]) (e : step s = .next t) : Latched d n t := by
  obtain ⟨faulted, refused, -⟩ := step_next_unmarked e
  rw [Machine.step_lane faulted refused pace sched] at e
  cases e
  have used : Latched d n { s with sched := [[]] } := ⟨h.pending, h.spared⟩
  exact used.lanes (laneStep_frame _ l)

theorem Latched.step_control {s t : State} (h : Latched d n s) (attached : s.attached = true)
    (pace : s.pace = .atomic) (sched : s.sched = [])
    (taken : ∀ p rest i, s.cur = none → s.inbox = p :: rest → decode s.cfg.numLanes p = .ok i →
      MayClear d n i → i = .attach) (e : step s = .next t) : Latched d n t := by
  obtain ⟨faulted, refused, -⟩ := step_next_unmarked e
  have moves : controlMoves s = true := by simp only [controlMoves, pace, sched]
  rw [Machine.step_control faulted refused pace moves] at e
  exact controlTurn_latched h attached taken e

/-! ### Executions -/

section
variable (e : Execution) (j : Nat)

@[simp] theorem Execution.before_cfg : (e.before j).cfg = (e.st j).cfg := by unfold Execution.before; split <;> rfl
@[simp] theorem Execution.before_cur : (e.before j).cur = (e.st j).cur := by unfold Execution.before; split <;> rfl
@[simp] theorem Execution.before_pace : (e.before j).pace = (e.st j).pace := by unfold Execution.before; split <;> rfl
@[simp] theorem Execution.before_attached : (e.before j).attached = (e.st j).attached := by
  unfold Execution.before; split <;> rfl
@[simp] theorem Execution.before_bank (d : Dir) : (e.before j).bank d = (e.st j).bank d := by
  unfold Execution.before; split <;> cases d <;> rfl

end

/-- One step of an execution that issues no instruction that may clear the bit, but for an ATTACH, which stops. -/
theorem Execution.latched_succ {e : Execution} {j : Nat} (valid : e.valid) (h : Latched d n (e.st j))
    (attached : (e.st j).attached = true) (issued : ∀ i, e.issues j i → MayClear d n i → i = .attach) :
    Latched d n (e.st (j + 1)) := by
  obtain ⟨pace, next⟩ := valid j
  have latched : Latched d n (e.before j) := by
    obtain ⟨pending, spared⟩ := h
    exact ⟨by simpa [sourcePending] using pending, by simpa using spared⟩
  rw [← before_pace] at pace
  cases turn : e.turn j with
  | lane l => exact latched.step_lane (l := l) pace (by simp only [Execution.before, turn]) next
  | control packet free =>
    refine latched.step_control (by simpa using attached) pace (by simp only [Execution.before, turn]) ?_ next
    intro p rest i hc hb hd
    have offered : packet.toList = p :: rest := by simpa only [Execution.before, turn] using hb
    obtain rfl : packet = some p := by cases packet <;> cases offered; rfl
    rw [before_cur] at hc
    rw [before_cfg] at hd
    exact issued i ⟨hc, p, free, turn, hd⟩

/-- An enabled and pending source holds the line up (R171). -/
theorem interruptLine_of_source {s : State} (hp : sourcePending s d n = true) (he : sourceEnabled s d n = true) :
    interruptLine s = true := by
  simp only [sourcePending, sourceEnabled, Bool.and_eq_true] at hp he
  obtain ⟨lane, isr⟩ := hp
  obtain ⟨-, ier⟩ := he
  refine decide_eq_true fun low => ?_
  have clear := and_laneMask_eq_zero.mp low n lane
  rw [testLane_or, testLane_and, testLane_and, Bool.or_eq_false_iff] at clear
  have off : (testLane (s.bank d).isr n && testLane (s.bank d).ier n) = false := by
    cases d
    · exact clear.1
    · exact clear.2
  rw [isr, ier] at off
  cases off

end

/-- Settles O60: were the bit never dispatched nor acknowledged it would stay latched, the line would stay up, and the
host would have dispatched. -/
theorem latchedCompletionIsDispatched : Obligations.LatchedCompletionIsDispatched := by
  intro e k d n fair pending between on
  by_contra never
  have issued : ∀ j, k ≤ j → ∀ i, e.issues j i → MayClear d n i → i = .attach := by
    rintro j hj i hi (rfl | rfl | ⟨v, hv, rfl⟩)
    · rfl
    · exact absurd ⟨j, hj, .inl hi⟩ never
    · exact absurd ⟨j, hj, .inr ⟨v, hv, hi⟩⟩ never
  have latched : ∀ j, k ≤ j → Latched d n (e.st j) := by
    intro j hj
    induction j, hj using Nat.le_induction with
    | base => exact latched_between pending between
    | succ j hj ih => exact e.latched_succ fair.runs ih (on j hj).1 (issued j hj)
  obtain ⟨j, hj, dispatched⟩ := fair.hostDispatches k fun j hj =>
    ⟨(on j hj).1, interruptLine_of_source (latched j hj).pending (on j hj).2⟩
  exact never ⟨j, hj, .inl dispatched⟩

end Sys2Proof.Machine
end

section
/-! What every command of the control unit does before it touches anything (42_channel_control R190): the common
checks; and that a command which answers an error other than `CorruptPointer` answers before its first access (R303). -/

namespace Sys2Proof.Machine

/-! ### The common checks (R190) -/

section
variable {i : Instr} {s : State}

theorem attachedProgram_detached {body : Op Ret} (h : s.attached = false) :
    runCommand i (attachedProgram i body) s = .fault .notAttached := by
  simp [attachedProgram, runCommand_eq, attachedOnly, h, finished, Stop.outcome]

/-- Every command but ATTACH asks first whether the driver is attached. -/
theorem commandOf_attachedProgram {x : Op Unit} (h : commandOf i = some x) (attach : i ≠ .attach) :
    ∃ body, x = attachedProgram i body := by
  cases i <;> simp only [commandOf, Option.some.injEq, reduceCtorEq] at h <;> subst h
  case attach => exact absurd rfl attach
  all_goals exact ⟨_, rfl⟩

/-- A body that answers in the state it began in leaves nothing but its `Result`. -/
theorem endCommand_answeredOnly (i : Instr) (r : Ret) (s : State) :
    endCommand i r (boundary (beginCommand i s)) = answeredOnly s i r.code r.value :=
  endCommand_boundary_beginCommand i i r s

theorem laneProgram_noLane {f : LaneField} {body : Lane → Op Ret} (ha : s.attached = true)
    (hf : s.cfg.numLanes.val ≤ f.val) : runCommand i (laneProgram i f body) s =
      .next (answeredOnly s i .invalidChannel (some f.val)) := by
  have none : (laneBody f body).run (beginCommand i s) =
      .ok { code := .invalidChannel, value := some f.val } (beginCommand i s) := by
    simp [laneBody, laneOf_eq_none.mpr hf]
  rw [laneProgram, attachedProgram_run ha, none, finished_ok, endCommand_answeredOnly]

end

/-- Settles O24: the driver is asked first whether it is attached; then the lane operand is looked at. -/
theorem commonChecks : Obligations.CommonChecks := by
  refine ⟨fun i s hi attach ha => ?_, fun s f d owner cb v count data ha hf i hi => ?_⟩
  · obtain ⟨x, hx⟩ := commandOf_of_isCommand hi
    obtain ⟨body, rfl⟩ := commandOf_attachedProgram hx attach
    rw [exec_command hx, attachedProgram_detached ha]
  · simp only [List.mem_cons, List.not_mem_nil, or_false] at hi
    obtain rfl | rfl | rfl | rfl | rfl | rfl | rfl | rfl | rfl | rfl | rfl | rfl := hi <;>
      exact laneProgram_noLane ha hf

/-! ### Errors come before the first access (R303) -/

/-- The codes that a command may answer after it has made an access. -/
def Code.late (c : Code) : Prop := c = .ok ∨ c = .corruptPointer

/-- However the piece ends, it answers `Ok` or `CorruptPointer`. -/
def Op.endsLate (x : Op Ret) : Prop := ∀ s, x.ensures (fun _ => True) s fun r _ => r.code.late

/-- Where the piece answers another code, it has changed nothing. -/
def Op.errsFirst (x : Op Ret) : Prop :=
  ∀ s, x.ensures (fun _ => True) s fun r t => r.code.late ∨ t = s

theorem endsLate_done {r : Ret} (h : r.code.late) : (Op.done r).endsLate := fun _ => h

theorem endsLate_ok (v : Option Nat) : (Op.done { code := .ok, value := v }).endsLate := endsLate_done (.inl rfl)

/-- Only the end of a sequence answers. -/
theorem endsLate_bind {α : Type} {x : Op α} {f : α → Op Ret} (h : ∀ a, (f a).endsLate) : (x.bind f).endsLate :=
  fun _ => ensures_bind.mpr (ensures_of_all fun a t _ => h a t)

theorem endsLate_ite {p : Prop} [Decidable p] {x y : Op Ret} (hx : p → x.endsLate) (hy : ¬p → y.endsLate) :
    (if p then x else y).endsLate := fun s => ensures_ite (fun h => hx h s) fun h => hy h s

theorem Op.endsLate.errsFirst {x : Op Ret} (h : x.endsLate) : x.errsFirst := fun s =>
  ensures_mono (h s) fun _ _ => Or.inl

theorem errsFirst_done (r : Ret) : (Op.done r).errsFirst := fun _ => .inr rfl

theorem errsFirst_ite {p : Prop} [Decidable p] {x y : Op Ret} (hx : p → x.errsFirst) (hy : ¬p → y.errsFirst) :
    (if p then x else y).errsFirst := fun s => ensures_ite (fun h => hx h s) fun h => hy h s

theorem errsFirst_params {f : Params → Op Ret} (h : ∀ c, (f c).errsFirst) : (params.bind f).errsFirst :=
  fun s => ensures_bind.mpr (ensures_params.mpr (h s.cfg s))

theorem errsFirst_lookChan {d : Dir} {n : Lane} {f : Chan → Op Ret} (h : ∀ e, (f e).errsFirst) :
    ((lookChan d n).bind f).errsFirst :=
  fun s => ensures_bind.mpr (ensures_lookChan.mpr (h (s.chan d n) s))

/-! ### The commands' bodies -/

theorem endsLate_corruptPath (d : Dir) (n : Lane) : (corruptPath d n).endsLate :=
  endsLate_bind fun _ => endsLate_bind fun _ => endsLate_bind fun _ => endsLate_done (.inr rfl)

theorem endsLate_attachBody : attachBody.endsLate :=
  endsLate_bind fun _ => endsLate_bind fun _ => endsLate_bind fun _ => endsLate_bind fun _ => endsLate_bind fun _ =>
    endsLate_bind fun _ => endsLate_bind fun _ => endsLate_bind fun _ => endsLate_ok _

theorem endsLate_detachBody : detachBody.endsLate :=
  endsLate_bind fun _ => endsLate_bind fun _ => endsLate_bind fun _ => endsLate_bind fun _ => endsLate_bind fun _ =>
    endsLate_bind fun _ => endsLate_bind fun _ => endsLate_ok _

theorem errsFirst_claimRxBody (owner : Owner) (cb : Callback) (n : Lane) : (claimRxBody owner cb n).errsFirst :=
  errsFirst_params fun _ => errsFirst_lookChan fun _ => errsFirst_ite (fun _ => errsFirst_done _) fun _ =>
    (endsLate_bind fun _ => endsLate_ok _).errsFirst

theorem errsFirst_claimTxBody (owner : Owner) (cb : Callback) (addr : Word) (n : Lane) :
    (claimTxBody owner cb addr n).errsFirst :=
  errsFirst_params fun _ => errsFirst_lookChan fun _ => errsFirst_ite (fun _ => errsFirst_done _) fun _ =>
    (endsLate_bind fun _ => endsLate_bind fun _ => endsLate_bind fun _ => endsLate_bind fun _ =>
      endsLate_bind fun _ => endsLate_bind fun _ => endsLate_ok _).errsFirst

theorem errsFirst_triggerOwned (d : Dir) (n : Lane) (r : RunState) : (triggerOwned d n r).errsFirst := by
  cases r with
  | armed => exact errsFirst_done _
  | idle | paused => exact (endsLate_bind fun _ => endsLate_ok _).errsFirst

theorem errsFirst_triggerBody (d : Dir) (n : Lane) : (triggerBody d n).errsFirst :=
  errsFirst_lookChan fun _ => errsFirst_ite (fun _ => errsFirst_triggerOwned d n _) fun _ => errsFirst_done _

theorem errsFirst_pauseBody (d : Dir) (n : Lane) : (pauseBody d n).errsFirst :=
  errsFirst_lookChan fun _ => errsFirst_ite
    (fun _ => (endsLate_bind fun _ => endsLate_bind fun _ => endsLate_ok _).errsFirst) fun _ => errsFirst_done _

theorem errsFirst_releaseBody (d : Dir) (n : Lane) : (releaseBody d n).errsFirst :=
  errsFirst_lookChan fun _ => errsFirst_ite
    (fun _ => (endsLate_bind fun _ => endsLate_bind fun _ => endsLate_bind fun _ => endsLate_ok _).errsFirst)
    fun _ => errsFirst_done _

theorem errsFirst_updswBody (d : Dir) (val : Word) (n : Lane) : (updswBody d val n).errsFirst :=
  errsFirst_params fun _ => errsFirst_lookChan fun _ => errsFirst_ite (fun _ => errsFirst_done _) fun _ =>
    errsFirst_ite (fun _ => (endsLate_bind fun _ => endsLate_bind fun _ => endsLate_ok _).errsFirst)
      fun _ => errsFirst_done _

theorem endsLate_rdhwBody (d : Dir) (n : Lane) : (rdhwBody d n).endsLate :=
  endsLate_bind fun _ => endsLate_bind fun _ => endsLate_ite (fun _ => endsLate_ok _) fun _ => endsLate_corruptPath d n

theorem endsLate_drainBytes (n : Lane) (mask tail avail : Nat) (h : Word) : (drainBytes n mask tail avail h).endsLate :=
  endsLate_bind fun _ => endsLate_bind fun _ => endsLate_bind fun _ => endsLate_bind fun _ =>
    endsLate_bind fun _ => endsLate_bind fun _ => endsLate_ok _

theorem endsLate_rxdrainBody (n : Lane) : (rxdrainBody n).endsLate :=
  endsLate_bind fun _ => endsLate_ite (fun _ => endsLate_ok _) fun _ => endsLate_bind fun _ => endsLate_bind fun _ =>
    endsLate_bind fun _ => endsLate_ite
      (fun _ => endsLate_bind fun _ => endsLate_ite (fun _ => endsLate_ok _) fun _ => endsLate_drainBytes _ _ _ _ _)
      fun _ => endsLate_corruptPath .rx n

theorem errsFirst_txprodBody (count : Nat) (data : List Byte) (n : Lane) : (txprodBody count data n).errsFirst :=
  errsFirst_params fun _ => errsFirst_lookChan fun _ => errsFirst_ite
    (fun _ => (endsLate_bind fun _ => endsLate_bind fun _ => endsLate_bind fun _ => endsLate_bind fun _ =>
      endsLate_bind fun _ => endsLate_bind fun _ => endsLate_ok _).errsFirst) fun _ => errsFirst_done _

theorem endsLate_txcompBody (n : Lane) : (txcompBody n).endsLate :=
  endsLate_bind fun _ => endsLate_ite (fun _ => endsLate_ok _) fun _ => endsLate_bind fun _ => endsLate_bind fun _ =>
    endsLate_bind fun _ => endsLate_ite
      (fun _ => endsLate_bind fun _ => endsLate_bind fun _ => endsLate_bind fun _ => endsLate_ok _)
      fun _ => endsLate_corruptPath .tx n

theorem endsLate_workRefill (n : Lane) : (workRefill n).endsLate :=
  endsLate_bind fun _ => endsLate_bind fun _ => endsLate_ite (fun _ => endsLate_bind fun _ => endsLate_ok _)
    fun _ => endsLate_ok _

theorem endsLate_workJob (n : Lane) (d : Dir) : (workJob n d).endsLate := by
  cases d with
  | rx => exact endsLate_rxdrainBody n
  | tx =>
    exact endsLate_bind fun _ => endsLate_ite (fun corrupt => endsLate_done (.inr corrupt)) fun _ =>
      endsLate_workRefill n

theorem endsLate_workBody (d : Dir) (n : Lane) : (workBody d n).endsLate :=
  endsLate_bind fun _ => endsLate_ite (fun _ => endsLate_bind fun _ => endsLate_workJob n d) fun _ => endsLate_ok _

theorem endsLate_dispatchBody : dispatchBody.endsLate :=
  endsLate_bind fun _ => endsLate_bind fun _ => endsLate_bind fun _ => endsLate_bind fun _ => endsLate_bind fun _ =>
    endsLate_ite (fun _ => endsLate_bind fun _ => endsLate_ok _) fun _ =>
      endsLate_bind fun _ => endsLate_bind fun _ => endsLate_ok _

/-! ### Whole commands -/

theorem errsFirst_attachedOnly {body : Op Ret} (h : body.errsFirst) : (attachedOnly body).errsFirst := fun s =>
  ensures_attachedOnly trivial fun _ => h s

theorem errsFirst_laneBody {f : LaneField} {body : Lane → Op Ret} (h : ∀ n, (body n).errsFirst) :
    (laneBody f body).errsFirst := fun s =>
  ensures_laneBody (fun _ => .inr rfl) fun n _ => h n s

/-- Every command is a body that answers errors first, and its `Result`. -/
theorem commandOf_errsFirst {i : Instr} {x : Op Unit} (h : commandOf i = some x) :
    ∃ body : Op Ret, body.errsFirst ∧ x = commandProgram i body := by
  have lane : ∀ (f : LaneField) {body : Lane → Op Ret}, (∀ n, (body n).errsFirst) →
      ∃ b : Op Ret, b.errsFirst ∧ laneProgram i f body = commandProgram i b := fun f _ hb =>
    ⟨_, errsFirst_attachedOnly (errsFirst_laneBody hb), rfl⟩
  cases i <;> simp only [commandOf, Option.some.injEq, reduceCtorEq] at h <;> subst h
  case attach => exact ⟨_, endsLate_attachBody.errsFirst, rfl⟩
  case detach => exact ⟨_, errsFirst_attachedOnly endsLate_detachBody.errsFirst, rfl⟩
  case claimTx f owner cb addr => exact lane f (errsFirst_claimTxBody owner cb addr)
  case claimRx f owner cb => exact lane f (errsFirst_claimRxBody owner cb)
  case trigger d f => exact lane f (errsFirst_triggerBody d)
  case stop d f => exact lane f fun n => (endsLate_bind fun _ => endsLate_ok _).errsFirst
  case pause d f => exact lane f (errsFirst_pauseBody d)
  case release d f => exact lane f (errsFirst_releaseBody d)
  case updsw d f val => exact lane f (errsFirst_updswBody d val)
  case rdhw d f => exact lane f fun n => (endsLate_rdhwBody d n).errsFirst
  case dispatch => exact ⟨_, errsFirst_attachedOnly endsLate_dispatchBody.errsFirst, rfl⟩
  case rxdrain f => exact lane f fun n => (endsLate_rxdrainBody n).errsFirst
  case txprod f count data => exact lane f (errsFirst_txprodBody count data)
  case txcomp f => exact lane f fun n => (endsLate_txcompBody n).errsFirst
  case work d f => exact lane f fun n => (endsLate_workBody d n).errsFirst

/-- Settles O26: the `Result` at the history's end is the command's own; a code that is neither `Ok` nor
`CorruptPointer` was answered in the state that the command began in. -/
theorem errorsTouchNothing : Obligations.ErrorsTouchNothing := by
  intro i j s t c v hi h last notOk notCorrupt
  obtain ⟨x, hx⟩ := commandOf_of_isCommand hi
  obtain ⟨body, hb, rfl⟩ := commandOf_errsFirst hx
  rw [exec_command hx] at h
  obtain ⟨next, -, -⟩ := runCommand_ensures (hb (beginCommand i s))
  obtain ⟨r, u, hu, rfl⟩ := next t h
  simp only [endCommand_hist, List.getLast?_concat, Option.some.injEq, Event.result.injEq] at last
  obtain ⟨rfl, rfl, rfl⟩ := last
  obtain rfl : u = beginCommand i s := hu.resolve_left fun late => late.elim notOk notCorrupt
  exact ⟨rfl, endCommand_answeredOnly i r s⟩

end Sys2Proof.Machine
end

section
/-! CLAIM, PAUSE, STOP, RELEASE and TRIGGER of one lane (42_channel_control R194 to R203): the state that each leaves,
whatever the lane agents do between its micro-steps. -/

namespace Sys2Proof.Machine

/-! ### How a lane command ends -/

/-- One silent piece after another: what the second leaves is told from what the first left. -/
theorem Did.seq {s u v t w x : State} (h : Did [] s u t) (k : Did [] t v w) (histU : u.hist = s.hist)
    (histV : v.hist = t.hist) (histX : x.hist = s.hist)
    (control : controlPart t = controlPart u → controlPart v = controlPart x)
    (quiet : quietPart t = quietPart u → quietPart v = quietPart x) : Did [] s x w where
  control := k.control.trans (control h.control)
  kept := h.kept.trans k.kept
  grew := h.grew.trans k.grew
  quiet hs := by
    obtain ⟨first, sched⟩ := h.quiet hs
    obtain ⟨second, sched'⟩ := k.quiet sched
    rw [List.append_nil, ← histU, setHist_self] at first
    rw [List.append_nil, ← histV, setHist_self] at second
    refine ⟨?_, sched'⟩
    rw [List.append_nil, ← histX, setHist_self]
    exact second.trans (quiet first)

section
variable {i : Instr} {f : LaneField} {n : Lane} {body : Lane → Op Ret} {s : State}

/-- How a lane command is answered, from how its body runs (R190). -/
theorem exec_lane (hi : commandOf i = some (laneProgram i f body)) (ha : s.attached = true)
    (hn : laneOf s.cfg f = some n) : exec i s = finished i ((body n).run (beginCommand i s)) := by
  rw [exec_command hi, laneProgram_run ha hn]

/-- A lane command whose body did its work ends. -/
theorem exec_lane_ended {own : List Event} {u : State} {r : Ret} (hi : commandOf i = some (laneProgram i f body))
    (ha : s.attached = true) (hn : laneOf s.cfg f = some n)
    (h : ∃ t, (body n).run (beginCommand i s) = .ok r t ∧ Did own (beginCommand i s) u t) :
    ∃ t, exec i s = .next t ∧ Ended i r own s u t := by
  obtain ⟨t, run, did⟩ := h
  exact ⟨_, by rw [exec_lane hi ha hn, run, finished_ok], did.ended r⟩

end

/-! ### CLAIM -/

section
variable {s : State} {n : Lane}

theorem not_owned_of_free {x : Slot} (h : x = .free) : ¬ x.isOwned = true := by rw [h]; nofun

theorem silent_claimRxBody (owner : Owner) (cb : Callback) (n : Lane) : (claimRxBody owner cb n).silent := fun c =>
  each_params (each_lookChan fun _ => each_ite (fun _ => each_done _) fun _ =>
    each_bind (silent_updateChan _ _ _ c) fun _ => each_done _)

theorem claimRxBody_run (owner : Owner) (cb : Callback) (free : (s.chan .rx n).slot = .free) :
    ∃ t, (claimRxBody owner cb n).run s = .ok (okValue s.cfg.rxBufPhys[n.val].toNat) t ∧
      Did [] s (s.setChan .rx n { s.chan .rx n with slot := .owned owner cb }) t := by
  have run : (claimRxBody owner cb n).run s = .ok (okValue s.cfg.rxBufPhys[n.val].toNat)
      ((boundary s).setChan .rx n { s.chan .rx n with slot := .owned owner cb }) := by
    simp [claimRxBody, not_owned_of_free free]
  exact ⟨_, run, .of_silent run (fun _ => effects_claimRxBody owner cb n) (silent_claimRxBody owner cb n) (by simp)
    (by simp) fun hs => by simp [quietPart_boundary, hs]⟩

theorem silent_setTxBuf (n : Lane) (v : Word) : (update fun s => s.setTxBuf n v).silent :=
  silent_update fun _ => ⟨rfl, rfl⟩

theorem silent_claimTxBody (owner : Owner) (cb : Callback) (addr : Word) (n : Lane) :
    (claimTxBody owner cb addr n).silent := fun c =>
  each_params (each_lookChan fun _ => each_ite (fun _ => each_done _) fun _ =>
    each_bind (each_faultIf _ _) fun _ => each_lookFits fun _ => each_bind (each_faultIf _ _) fun _ =>
      each_bind (silent_st32 _ _ c) fun _ => each_bind (silent_setTxBuf n addr c) fun _ =>
        each_bind (silent_updateChan _ _ _ c) fun _ => each_done _)

theorem claimTxBody_unaligned (owner : Owner) (cb : Callback) {addr : Word} (free : (s.chan .tx n).slot = .free)
    (h : aligned s.cfg addr = false) :
    (claimTxBody owner cb addr n).run s = .error (.fault .baseAlign) s := by
  simp [claimTxBody, not_owned_of_free free, h]

theorem claimTxBody_misfit (owner : Owner) (cb : Callback) {addr : Word} (free : (s.chan .tx n).slot = .free)
    (hal : aligned s.cfg addr = true) (h : txBufferFits s addr = false) :
    (claimTxBody owner cb addr n).run s = .error (.fault .overlap) s := by
  simp [claimTxBody, not_owned_of_free free, hal, h]

theorem claimTxBody_run (owner : Owner) (cb : Callback) {addr : Word} (free : (s.chan .tx n).slot = .free)
    (hal : aligned s.cfg addr = true) (fits : txBufferFits s addr = true) (disabled : laneEnabled s .tx n = false) :
    ∃ t, (claimTxBody owner cb addr n).run s = .ok okRet t ∧
      Did [] s (((s.withBase .tx n addr).setTxBuf n addr).setChan .tx n
        { s.chan .tx n with slot := .owned owner cb }) t := by
  have run : (claimTxBody owner cb addr n).run s = .ok okRet ((boundary
      ((boundary ((boundary s).withBase .tx n addr)).setTxBuf n addr)).setChan .tx n
        { s.chan .tx n with slot := .owned owner cb }) := by
    simp [claimTxBody, not_owned_of_free free, hal, fits, st32_base s disabled hal]
  exact ⟨_, run, .of_silent run (fun _ => effects_claimTxBody owner cb addr n) (silent_claimTxBody owner cb addr n)
    (by simp) (by simp) fun hs => by simp [quietPart_boundary, hs]⟩

end

/-- Settles O30: the body updates the lane's slot, and makes no other access. -/
theorem claimRxOwnsLane : Obligations.ClaimRxOwnsLane := by
  intro s f n owner cb ha hn free
  refine exec_lane_ended rfl ha hn ?_
  obtain ⟨t, run, did⟩ := claimRxBody_run (s := beginCommand (.claimRx f owner cb) s) owner cb (by simpa using free)
  exact ⟨t, run, did.congr (by simp)⟩

theorem aligned_iff {c : Params} {a : Word} : aligned c a = true ↔ a.toNat % bufAlign c = 0 := decide_eq_true_iff

theorem belowTop_iff {c : Params} {d : Dir} {a : Word} : belowTop c d a = true ↔ a.toNat + cap c d ≤ 2 ^ 32 :=
  decide_eq_true_iff

/-- The placement that R195 asks of a transmit buffer is the check that CLAIM_TX makes. -/
theorem txBufferFits_iff_rings {s : State} {addr : Word} : txBufferFits s addr = true ↔
    addr.toNat + cap s.cfg .tx ≤ 2 ^ 32 ∧
      disjoint (ringRegion s.cfg .tx addr) (windowRegion s.cfg) = true ∧
      (∀ m : Lane, s.cfg.hasLane m = true →
        disjoint (ringRegion s.cfg .tx addr) (ringRegion s.cfg .rx s.cfg.rxBufPhys[m.val]) = true) ∧
      ∀ m : Lane, s.cfg.hasLane m = true → (s.chan .tx m).slot.isOwned = true →
        disjoint (ringRegion s.cfg .tx addr) (ringRegion s.cfg .tx s.txBuf[m.val]) = true := by
  simp [txBufferFits_iff, belowTop_iff, rxRegions, and_assoc]

/-- Settles O31: the alignment is tested first, then the placement; then base, buffer and slot are written. -/
theorem claimTxOwnsLane : Obligations.ClaimTxOwnsLane := by
  intro s f n owner cb addr ha hn free fits
  have free' : ((beginCommand (.claimTx f owner cb addr) s).chan .tx n).slot = .free := by simpa using free
  have asked : txBufferFits (beginCommand (.claimTx f owner cb addr) s) addr = true ↔ fits := txBufferFits_iff_rings
  refine ⟨fun unaligned => ?_, fun hal misfit => ?_, fun hal fit disabled => ?_⟩
  · rw [exec_lane rfl ha hn, claimTxBody_unaligned owner cb free'
      (Bool.eq_false_of_not_eq_true (unaligned ∘ aligned_iff.mp))]
    rfl
  · rw [exec_lane rfl ha hn, claimTxBody_misfit owner cb free' (aligned_iff.mpr hal)
      (Bool.eq_false_of_not_eq_true (misfit ∘ asked.mp))]
    rfl
  · refine exec_lane_ended rfl ha hn ?_
    obtain ⟨t, run, did⟩ := claimTxBody_run owner cb free' (aligned_iff.mpr hal) (asked.mpr fit)
      (by simpa using disabled)
    exact ⟨t, run, did.congr (by simp)⟩

/-! ### The enable bit: PAUSE, and TRIGGER of a `Paused` lane -/

section
variable {s : State} {d : Dir} {n : Lane}

theorem silent_pauseBody (d : Dir) (n : Lane) : (pauseBody d n).silent := fun c =>
  each_lookChan fun _ => each_ite
    (fun _ => each_bind (silent_clrEn _ _ c) fun _ => each_bind (silent_updateChan _ _ _ c) fun _ => each_done _)
    fun _ => each_done _

theorem pauseBody_run (armed : (s.chan d n).run = .armed) :
    ∃ t, (pauseBody d n).run s = .ok okRet t ∧
      Did [] s (((dropReserved s).withEn d (withoutLaneBit s.cfg (s.bank d).en n)).setChan d n
        { s.chan d n with run := .paused }) t := by
  have run : (pauseBody d n).run s = .ok okRet
      ((boundary ((boundary (dropReserved (boundary s))).withEn d (withoutLaneBit s.cfg (s.bank d).en n))).setChan d n
        { s.chan d n with run := .paused }) := by
    simp [pauseBody, armed]
  exact ⟨_, run, .of_silent run (fun _ => effects_pauseBody d n) (silent_pauseBody d n) (by simp) (by simp)
    fun hs => by simp [quietPart_boundary, hs]⟩

theorem silent_triggerPaused (d : Dir) (n : Lane) : (triggerPaused d n).silent :=
  silent_bind (silent_setEn d n) fun _ => silent_updateChan _ _ _

theorem effects_triggerPaused (d : Dir) (n : Lane) {c : Params} : (triggerPaused d n).effects c :=
  each_bind (effects_setEn d n) fun _ => effects_setRun _ _ _

theorem triggerPaused_run (d : Dir) (n : Lane) (s : State) : ∃ t, (triggerPaused d n).run s = .ok () t ∧
    Did [] s (((dropReserved s).withEn d (withLaneBit s.cfg (s.bank d).en n)).setChan d n
      { s.chan d n with run := .armed }) t := by
  have run : (triggerPaused d n).run s = .ok ()
      ((boundary ((boundary (dropReserved (boundary s))).withEn d (withLaneBit s.cfg (s.bank d).en n))).setChan d n
        { s.chan d n with run := .armed }) := by
    simp [triggerPaused]
  exact ⟨_, run, .of_silent run (fun _ => effects_triggerPaused d n) (silent_triggerPaused d n) (by simp) (by simp)
    fun hs => by simp [quietPart_boundary, hs]⟩

end

/-- Settles O36: the body clears the enable bit and sets the run state. -/
theorem pauseKeepsPointers : Obligations.PauseKeepsPointers := by
  intro s d f n ha hn armed
  refine exec_lane_ended rfl ha hn ?_
  obtain ⟨t, run, did⟩ := pauseBody_run (s := beginCommand (.pause d f) s) (d := d) (n := n) (by simpa using armed)
  exact ⟨t, run, did.congr (by simp)⟩

/-! ### TRIGGER -/

section
variable {s : State} {d : Dir} {n : Lane} {u : State}

/-- TRIGGER of an owned `Idle` lane answers `Ok` once the lane is started (R196). -/
theorem triggerBody_idle (owned : (s.chan d n).slot.isOwned = true) (idle : (s.chan d n).run = .idle)
    (h : ∃ t, (triggerIdle n d).run s = .ok () t ∧ Did [] s u t) :
    ∃ t, (triggerBody d n).run s = .ok okRet t ∧ Did [] s u t := by
  obtain ⟨t, run, did⟩ := h
  exact ⟨t, by simp [triggerBody, owned, idle, triggerOwned, run], did⟩

/-- TRIGGER of an owned `Paused` lane answers `Ok` once the lane is resumed (R196). -/
theorem triggerBody_paused (owned : (s.chan d n).slot.isOwned = true) (paused : (s.chan d n).run = .paused)
    (h : ∃ t, (triggerPaused d n).run s = .ok () t ∧ Did [] s u t) :
    ∃ t, (triggerBody d n).run s = .ok okRet t ∧ Did [] s u t := by
  obtain ⟨t, run, did⟩ := h
  exact ⟨t, by simp [triggerBody, owned, paused, triggerOwned, run], did⟩

theorem triggered_rx_eq (s : State) (n : Lane) : triggered s n .rx =
    ({ dropReserved s with
        rx := { s.rx with
          en := withLaneBit s.cfg s.rx.en n
          rst := 0
          hw := s.rx.hw.set n.val 0
          sw := s.rx.sw.set n.val 0 } } : State).setChan .rx n
      { s.chan .rx n with head := 0, tail := 0, run := .armed } := rfl

theorem triggered_tx_eq (s : State) (n : Lane) : triggered s n .tx =
    ({ dropReserved s with
        tx := { s.tx with
          en := withLaneBit s.cfg s.tx.en n
          rst := 0
          hw := s.tx.hw.set n.val (toWord (s.chan .tx n).tail)
          sw := s.tx.sw.set n.val (toWord (s.chan .tx n).head) }
        txMoved := s.txMoved.set n.val false } : State).setChan .tx n
      { s.chan .tx n with run := .armed } := by
  simp [triggered, pulsed, State.withStill, State.withEn, State.withHw, State.withSw, State.withRst, State.setBank,
    State.bank, Bank.setHw, Bank.setSw]

/-- The start of a command is no part of what TRIGGER leaves. -/
theorem quietPart_triggered_beginCommand (i : Instr) (s : State) (n : Lane) (d : Dir) :
    quietPart (triggered (beginCommand i s) n d) = quietPart (triggered s n d) := by
  cases d <;> simp [triggered]

end

/-- Settles O32. -/
theorem triggerIdleReceive : Obligations.TriggerIdleReceive := by
  intro s f n ha hn owned idle disabled
  rw [← triggered_rx_eq]
  refine exec_lane_ended rfl ha hn (triggerBody_idle (by simpa using owned) (by simpa using idle) ?_)
  obtain ⟨t, run, did⟩ := triggerIdleRx_run n (beginCommand (.trigger .rx f) s) (laneOf_hasLane hn)
    (by simpa using disabled)
  exact ⟨t, run, did.congr (quietPart_triggered_beginCommand ..)⟩

/-- Settles O33. -/
theorem triggerIdleTransmit : Obligations.TriggerIdleTransmit := by
  intro s f n ha hn owned idle disabled head tail
  rw [← triggered_tx_eq]
  refine exec_lane_ended rfl ha hn (triggerBody_idle (by simpa using owned) (by simpa using idle) ?_)
  obtain ⟨t, run, did⟩ := triggerIdleTx_run n (beginCommand (.trigger .tx f) s) (laneOf_hasLane hn)
    (by simpa using disabled) (by simpa using head) (by simpa using tail)
  exact ⟨t, run, did.congr (quietPart_triggered_beginCommand ..)⟩

/-- Settles O34: only the enable bit and the run state are written. -/
theorem triggerPausedResumes : Obligations.TriggerPausedResumes := by
  intro s d f n ha hn owned paused
  refine exec_lane_ended rfl ha hn (triggerBody_paused (by simpa using owned) (by simpa using paused) ?_)
  obtain ⟨t, run, did⟩ := triggerPaused_run d n (beginCommand (.trigger d f) s)
  exact ⟨t, run, did.congr (by simp)⟩

end Sys2Proof.Machine
end

section
/-! Lanes at rest (10_state R26 to R36, 41_engine R161): a lane that is not enabled and whose reset was asserted
keeps its hardware pointer at 0 and its `tx_moved` clear, whatever the lane agents do, until the control unit says
otherwise. -/

namespace Sys2Proof.Machine

/-- The lane is not enabled, its hardware pointer is 0 (on hardware that does not corrupt pointers), and it has moved no
byte since its last completion (R176). -/
structure AtRest (s : State) (d : Dir) (n : Lane) : Prop where
  disabled : laneEnabled s d n = false
  hw : s.cfg.hwMayCorrupt = false → (s.bank d).hw[n.val] = 0
  still : d = .tx → s.txMoved[n.val] = false

theorem laneActive_of_disabled {s : State} {d : Dir} {n : Lane} (h : laneEnabled s d n = false) :
    laneActive s d n = false := by
  have bit : testLane (s.bank d).en n = false := h
  simp [laneActive, bit]

theorem boundary_unmoved {s : State} {d : Dir} {n : Lane} (h : laneActive s d n = false) :
    Unmoved d n s (boundary s) := by
  have books : Unmoved d n (interleave s) (boundary s) := unmoved_of_eq rfl rfl
  refine Unmoved.trans ?_ books
  unfold interleave
  split
  · exact unmoved_of_eq rfl rfl
  · exact (unmoved_of_eq rfl rfl).trans (laneSteps_unmoved _ _ h)

section
variable {s : State} {d e : Dir} {n m : Lane} {v : Word}

/-! ### What keeps a lane at rest -/

/-- Only the registers and `tx_moved` matter. -/
theorem AtRest.congr {t : State} (h : AtRest s d n) (cfg : t.cfg = s.cfg) (bank : t.bank d = s.bank d)
    (moved : d = .tx → t.txMoved[n.val] = s.txMoved[n.val]) : AtRest t d n :=
  ⟨by rw [laneEnabled, bank]; exact h.disabled, by rw [cfg, bank]; exact h.hw,
    fun hd => (moved hd).trans (h.still hd)⟩

/-- The lane agents leave it at rest (R161). -/
theorem AtRest.boundary (h : AtRest s d n) : AtRest (boundary s) d n := by
  have inactive := laneActive_of_disabled h.disabled
  refine ⟨by simpa using h.disabled, fun hc => ?_, fun hd => ?_⟩
  · rw [boundary_cfg] at hc
    rw [Machine.boundary, advanceCur_bank]
    exact ((interleave_frame s).hwInactive hc d n inactive).trans (h.hw hc)
  · exact ((boundary_unmoved inactive).1 hd).trans (h.still hd)

/-- So does a write to the registers of one direction that does not enable it, nor set its hardware pointer. -/
theorem AtRest.setBank (h : AtRest s d n) {b : Bank} (en : e = d → testLane b.en n = false)
    (hw : e = d → b.hw[n.val] = (s.bank d).hw[n.val] ∨ b.hw[n.val] = 0) : AtRest (s.setBank e b) d n := by
  by_cases he : e = d
  · subst he
    refine ⟨by simpa [laneEnabled] using en rfl, fun hc => ?_, by simpa using h.still⟩
    rw [setBank_cfg] at hc
    rw [setBank_bank]
    exact (hw rfl).elim (·.trans (h.hw hc)) id
  · exact h.congr (setBank_cfg ..) (setBank_bank_other s b (Ne.symm he)) fun _ => by rw [setBank_txMoved]

theorem AtRest.withHw_zero (h : AtRest s d n) : AtRest (s.withHw e m 0) d n := by
  refine h.setBank (fun he => ?_) fun he => ?_
  · subst he; exact h.disabled
  · subst he
    rw [setHw_hw, lane_set_get]
    split
    · exact .inr rfl
    · exact .inl rfl

theorem AtRest.assertReset (h : AtRest s d n) : AtRest (assertReset s e v) d n := by
  by_cases he : e = d
  · subst he
    refine ⟨by simpa using h.disabled, fun hc => ?_, fun hd => ?_⟩
    · rw [assertReset_cfg] at hc
      simp only [assertReset_bank, zeroPointers_hw, h.hw hc, ite_self]
    · subst hd
      exact (clearMoved_get ..).trans (by rw [h.still rfl, ite_self])
  · refine h.congr (assertReset_cfg ..) (assertReset_bank_other s v (Ne.symm he)) ?_
    rintro rfl
    cases e with
    | tx => exact absurd rfl he
    | rx => rfl

/-- A disabled lane whose reset is asserted comes to rest (R130, R132). -/
theorem atRest_of_reset (disabled : laneEnabled s d n = false) (reset : testLane v n = true) :
    AtRest (assertReset s d v) d n := by
  refine ⟨by simpa using disabled, fun _ => ?_, ?_⟩
  · simp only [assertReset_bank, zeroPointers_hw, reset, if_true]
  · rintro rfl
    exact (clearMoved_get ..).trans (by rw [reset, if_pos rfl])

/-! ### Pieces that leave lanes at rest -/

/-- What is at rest stays at rest. -/
def Resting (d : Dir) (n : Lane) (s t : State) : Prop := t.cfg = s.cfg ∧ (AtRest s d n → AtRest t d n)

/-- No micro-step of the piece rouses a lane. -/
abbrev Op.restful {α : Type} (x : Op α) : Prop := ∀ c d n, x.each c (Resting d n)

/-- Register writes that rouse no lane: an enable register or a hardware pointer is written 0 only. -/
def Reg.spares : Reg → Word → Prop
  | .en _, v | .hw _ _, v => v = 0
  | _, _ => True

theorem regWrite_resting {r : Reg} {t : State} (hr : r.spares v) (h : regWrite r v s = .ok t) : Resting d n s t := by
  refine ⟨(regWrite_kept h).1.cfg, fun rest => ?_⟩
  have same (e : Dir) {b : Bank} (en : b.en = (s.bank e).en) (hw : b.hw = (s.bank e).hw) :
      AtRest (s.setBank e b) d n := by
    refine rest.setBank (fun he => ?_) fun he => ?_
    · subst he; rw [en]; exact rest.disabled
    · subst he; exact .inl (by rw [hw])
  cases r <;> simp only [regWrite] at h <;> (repeat' split at h) <;> cases h
  case en e _ =>
    obtain rfl : v = 0 := hr
    exact rest.setBank (fun _ => testLane_zero n) fun he => by subst he; exact .inl rfl
  case rst e _ => exact rest.assertReset
  case ier e _ => exact same e rfl rfl
  case isr e => exact same e rfl rfl
  case sw => exact rest
  case sw e m _ _ => exact same e rfl rfl
  case base e m _ _ => exact same e rfl rfl
  case bufSz | rxTimeout => exact rest.congr rfl (by cases d <;> rfl) fun _ => rfl
  case hw => exact rest
  case hw e m _ _ _ =>
    obtain rfl : v = 0 := hr
    exact rest.withHw_zero

theorem restful_st32 {r : Reg} (hr : r.spares v) : (st32 r v).restful := fun _ _ _ =>
  each_st32 fun _ _ _ h => regWrite_resting hr h

theorem restful_update {f : State → State} (cfg : ∀ s, (f s).cfg = s.cfg) (bank : ∀ s d, (f s).bank d = s.bank d)
    (moved : ∀ s, (f s).txMoved = s.txMoved) : (update f).restful := fun _ d _ =>
  ⟨fun s _ _ _ e => by
    cases e
    exact ⟨cfg s, fun rest => rest.congr (cfg s) (bank s d) fun _ => by rw [moved]⟩, fun _ => trivial⟩

theorem restful_updateChan (d : Dir) (n : Lane) (f : Chan → Chan) : (updateChan d n f).restful :=
  restful_update (fun _ => setChan_cfg ..) (fun _ _ => setChan_bank ..) fun _ => setChan_txMoved ..

theorem restful_clearTxBuf (n : Lane) : (clearTxBuf n).restful :=
  restful_update (fun _ => rfl) (fun _ _ => setTxBuf_bank ..) fun _ => rfl

section
variable {α β : Type}

theorem restful_bind {x : Op α} {f : α → Op β} (h : x.restful) (k : ∀ a, (f a).restful) : (x.bind f).restful :=
  fun c d n => each_bind (h c d n) fun a => k a c d n

theorem restful_forEach {ι : Type} (l : List ι) {f : ι → Op Unit} (h : ∀ a, (f a).restful) :
    (forEach l f).restful := fun c d n => each_forEach l fun a => h a c d n

theorem restful_done (a : α) : (Op.done a).restful := fun _ _ _ => trivial

/-- Run to its end, such a piece leaves at rest what was. -/
theorem AtRest.run {x : Op α} {t : State} {a : α} (h : AtRest s d n) (hx : x.restful) (e : x.run s = .ok a t) :
    AtRest t d n := by
  have := each_run (hx s.cfg d n) (fun s => ⟨rfl, id⟩) (fun h k => ⟨k.1.trans h.1, k.2 ∘ h.2⟩)
    (fun s => ⟨boundary_cfg s, AtRest.boundary⟩) (fun h => h.1) s rfl
  rw [e] at this
  exact this.2 h

end

/-! ### The STOP sequence brings its lane to rest -/

/-- What follows the reset write in the STOP sequence. -/
theorem restful_afterReset (d : Dir) (n : Lane) : ((zeroPointerRegs n d).bind fun _ => (lookBuf d n).bind fun a =>
    (st32 (.base d n) a).bind fun _ => (updateChan d n (stoppedChan d)).bind fun _ =>
      updateChan d n fun c => { c with run := .idle }).restful := by
  have zero : (zeroPointerRegs n d).restful := by
    cases d <;> exact restful_bind (restful_st32 (by simp [Reg.spares])) fun _ => restful_st32 (by simp [Reg.spares])
  refine restful_bind zero fun _ c e m => each_lookBuf fun _ => ?_
  exact restful_bind (restful_st32 (r := .base d n) trivial)
    (fun _ => restful_bind (restful_updateChan d n _) fun _ => restful_updateChan d n _) c e m

/-- The STOP sequence of a lane brings it to rest, and rouses no other (R201, R345). -/
theorem stopSequence_rests {t : State} (h : (stopSequence d n).run s = .ok () t) (hn : s.cfg.hasLane n = true) :
    AtRest t d n ∧ ∀ e m, AtRest s e m → AtRest t e m := by
  obtain ⟨_, a, disable, h⟩ := run_bind_ok.mp h
  obtain ⟨_, b, pulsed, rest⟩ := run_bind_ok.mp h
  rw [clrEn_run] at disable
  cases disable
  rw [pulse_run d (by simpa using hn)] at pulsed
  cases pulsed
  refine ⟨?_, fun e m h => ?_⟩
  · refine AtRest.run ?_ (restful_afterReset d n) rest
    exact (atRest_of_reset (by simp) (by simp)).boundary.assertReset
  · refine AtRest.run ?_ (restful_afterReset d n) rest
    have drawn : AtRest (Machine.boundary (dropReserved (Machine.boundary s))) e m :=
      (h.boundary.congr (t := dropReserved (Machine.boundary s)) rfl (dropReserved_bank ..) fun _ => rfl).boundary
    refine (drawn.setBank (fun he => ?_)
      fun he => by subst he; exact .inl rfl).boundary.assertReset.boundary.assertReset
    subst he
    have off : testLane (s.bank d).en m = false := h.disabled
    simp [off]

end

end Sys2Proof.Machine
end

section
/-! STOP and RELEASE of one lane (42_channel_control R201, R203). -/

namespace Sys2Proof.Machine

/-- The start of a command is no part of what STOP leaves. -/
theorem quietPart_stopped_beginCommand (i : Instr) (s : State) (d : Dir) (n : Lane) :
    quietPart (stopped (beginCommand i s) d n) = quietPart (stopped s d n) := by
  simp [stopped]

/-- Settles O35: the STOP sequence leaves the stopped state, and its lane at rest. -/
theorem stopResetsLane : Obligations.StopResetsLane := by
  intro s d f n ha hn hal
  have lane := laneOf_hasLane hn
  obtain ⟨t, run, did⟩ := stopSequence_run d n (beginCommand (.stop d f) s) lane (by simpa using hal)
  obtain ⟨rest, -⟩ := stopSequence_rests run lane
  have body : (stopBody d n).run (beginCommand (.stop d f) s) = .ok okRet t := run_seq run (run_done _ _)
  refine ⟨endCommand (.stop d f) okRet (boundary t), ?_, fun hc => ?_, ?_⟩
  · rw [exec_lane rfl ha hn, body, finished_ok]
  · rw [endCommand_bank]
    exact rest.boundary.hw (by simpa [did.kept.cfg] using hc)
  · exact (did.congr ((quietPart_stopped_beginCommand ..).trans (congrArg quietPart (by cases d <;> rfl)))).ended okRet

/-! ### RELEASE -/

/-- What RELEASE leaves: the lane as STOP leaves it, but free, a transmit lane's base and buffer 0 (R203). -/
def released (s : State) (n : Lane) : Dir → State
  | .tx => (((pulsed ((dropReserved s).withEn .tx (withoutLaneBit s.cfg (s.bank .tx).en n)) .tx n).withBase .tx n
      0).setTxBuf n 0).setChan .tx n Chan.reset
  | .rx => ((pulsed ((dropReserved s).withEn .rx (withoutLaneBit s.cfg (s.bank .rx).en n)) .rx n).withBase .rx n
      (s.buf .rx n)).setChan .rx n Chan.reset

/-- The start of a command is no part of what RELEASE leaves. -/
theorem quietPart_released_beginCommand (i : Instr) (s : State) (n : Lane) (d : Dir) :
    quietPart (released (beginCommand i s) n d) = quietPart (released s n d) := by
  cases d <;> simp [released]

/-- RELEASE once the lane is stopped. -/
def freeing (d : Dir) (n : Lane) : Op Unit :=
  (releaseBuffer n d).bind fun _ => updateChan d n freedChan

section
variable {s : State} {d : Dir} {n : Lane}

theorem effects_freeing (d : Dir) (n : Lane) {c : Params} : (freeing d n).effects c := by
  refine each_bind ?_ fun _ => effects_updateChan n (keepsRange_freed d)
  cases d with
  | tx => exact effects_dropTxBuffer n
  | rx => exact each_done _

theorem silent_freeing (d : Dir) (n : Lane) : (freeing d n).silent := by
  refine silent_bind ?_ fun _ => silent_updateChan _ _ _
  cases d with
  | tx => exact silent_bind (silent_st32 _ _) fun _ => silent_setTxBuf n 0
  | rx => exact fun _ => each_done _

/-- What freeing a disabled lane leaves. -/
def freed (s : State) (n : Lane) : Dir → State
  | .tx => ((s.withBase .tx n 0).setTxBuf n 0).setChan .tx n (freedChan (s.chan .tx n))
  | .rx => s.setChan .rx n (freedChan (s.chan .rx n))

theorem freeing_run (disabled : laneEnabled s d n = false) :
    ∃ t, (freeing d n).run s = .ok () t ∧ Did [] s (freed s n d) t := by
  cases d with
  | tx =>
    have run := run_seq (f := fun _ => updateChan .tx n freedChan) (dropTxBuffer_run disabled)
      (updateChan_run .tx n freedChan _)
    exact ⟨_, run, .of_silent run (fun _ => effects_freeing .tx n) (silent_freeing .tx n) rfl (by simp [freed])
      fun hs => by simp [freed, quietPart_boundary, hs]⟩
  | rx =>
    have run := updateChan_run .rx n freedChan s
    exact ⟨_, run, .of_silent run (fun _ => effects_freeing .rx n) (silent_freeing .rx n) rfl (by simp [freed])
      fun hs => by simp [freed, quietPart_boundary, hs]⟩

/-- A stopped lane, freed, is a released lane. -/
theorem freed_stopped (s : State) (d : Dir) (n : Lane) : freed (stopped s d n) n d = released s n d := by
  have entry : freedChan { stoppedChan d (s.chan d n) with run := .idle } = Chan.reset := by cases d <;> rfl
  cases d <;> simp only [freed, stopped_chan, entry] <;> simp [released, stopped]

/-- RELEASE of an owned lane whose buffer is aligned (R203). -/
theorem releaseBody_run (hn : s.cfg.hasLane n = true) (owned : (s.chan d n).slot.isOwned = true)
    (hal : aligned s.cfg (s.buf d n) = true) :
    ∃ t, (releaseBody d n).run s = .ok okRet t ∧ Did [] s (released s n d) t := by
  obtain ⟨t, stop, did⟩ := stopSequence_run d n s hn hal
  obtain ⟨u, free, did'⟩ := freeing_run (s := t) (d := d) (n := n)
    ((control_laneEnabled did.control d n).trans (stopped_laneEnabled s d n))
  obtain ⟨_, a, drop, entry⟩ := run_bind_ok.mp free
  refine ⟨u, by simp [releaseBody, owned, stop, drop, entry], ?_⟩
  rw [← freed_stopped]
  refine did.seq did' ?_ ?_ ?_ (fun e => ?_) fun e => ?_
  · cases d <;> rfl
  · cases d <;> rfl
  · cases d <;> rfl
  · cases d <;> simp [freed, e, control_chan e]
  · cases d <;> simp [freed, e, quiet_chan e]

end

/-- Settles O37: the lane is stopped, then freed. -/
theorem releaseFreesLane : Obligations.ReleaseFreesLane := by
  intro s d f n ha hn owned hal
  refine exec_lane_ended rfl ha hn ?_
  obtain ⟨t, run, did⟩ := releaseBody_run (s := beginCommand (.release d f) s) (laneOf_hasLane hn)
    (by simpa using owned) (by simpa using hal)
  exact ⟨t, run, did.congr ((quietPart_released_beginCommand ..).trans (congrArg quietPart (by cases d <;> rfl)))⟩

end Sys2Proof.Machine
end

section
/-! ATTACH's checks (42_channel_control R192): they look at the parameters only, and the first that fails decides. -/

namespace Sys2Proof.Machine

/-! ### Loops over lanes, in ascending order -/

section
variable {ι : Type} {f : ι → Op Unit} {s : State}

/-- A loop whose rounds change nothing. -/
theorem forEach_run_same {l : List ι} (h : ∀ a ∈ l, (f a).run s = .ok () s) : (forEach l f).run s = .ok () s := by
  induction l with
  | nil => rfl
  | cons a l ih => exact run_seq (h a List.mem_cons_self) (ih fun b hb => h b (List.mem_cons_of_mem a hb))

/-- A loop stops in the first round that stops, the rounds before having changed nothing. -/
theorem forEach_run_stops [LT ι] {l : List ι} (sorted : l.Pairwise (· < ·)) {a : ι} (ha : a ∈ l)
    (before : ∀ b, b < a → (f b).run s = .ok () s) {e : Stop} (stops : (f a).run s = .error e s) :
    (forEach l f).run s = .error e s := by
  induction l with
  | nil => cases ha
  | cons b l ih =>
    obtain ⟨lower, sorted⟩ := List.pairwise_cons.mp sorted
    obtain rfl | ha := List.mem_cons.mp ha
    · exact run_bind_error.mpr (.inl stops)
    · exact run_bind_error.mpr (.inr ⟨(), s, before b (lower a ha), ih sorted ha⟩)

theorem lanes_sorted (c : Params) : c.lanes.Pairwise (· < ·) := by
  have sorted : laneIndices.Pairwise (· < ·) := by decide
  exact sorted.filter _

end

/-! ### The checks -/

section
variable {c : Params} {n : Lane} {s : State}

theorem attachCheckRing_passes (hal : aligned c c.rxBufPhys[n.val] = true)
    (top : belowTop c .rx c.rxBufPhys[n.val] = true) : (attachCheckRing c n).run s = .ok () s := by
  simp [attachCheckRing, hal, top]

theorem attachCheckRing_unaligned (h : aligned c c.rxBufPhys[n.val] = false) :
    (attachCheckRing c n).run s = .error (.fault .baseAlign) s := by
  simp [attachCheckRing, h]

theorem attachCheckRing_high (hal : aligned c c.rxBufPhys[n.val] = true)
    (top : belowTop c .rx c.rxBufPhys[n.val] = false) :
    (attachCheckRing c n).run s = .error (.fault .overlap) s := by
  simp [attachCheckRing, hal, top]

theorem attachChecks_passes (h : receiveRingsOk c = true) : (attachChecks c).run s = .ok () s := by
  have rings : (forEach c.lanes (attachCheckRing c)).run s = .ok () s := forEach_run_same fun n hn => by
    obtain ⟨hal, top⟩ := mem_rxRings h (mem_lanes.mp hn)
    exact attachCheckRing_passes hal top
  simp only [receiveRingsOk, Bool.and_eq_true] at h
  obtain ⟨-, apart⟩ := h
  simp [attachChecks, rings, apart]

/-- ATTACH of a driver that is not attached stops where its checks do. -/
theorem exec_attach_stops {r : Fault} (ha : s.attached = false)
    (h : (attachChecks s.cfg).run (beginCommand .attach s) = .error (.fault r) (beginCommand .attach s)) :
    exec .attach s = .fault r := by
  have body : attachBody.run (beginCommand .attach s) = .error (.fault r) (beginCommand .attach s) := by
    simp [attachBody, ha, h]
  exact (runCommand_eq .attach attachBody s).trans (congrArg (finished .attach) body)

end

/-- Settles O28: the lanes are checked in ascending order, each for alignment first; then all rings together. -/
theorem attachFaults : Obligations.AttachFaults := by
  intro s ok
  have passes (m : Lane) (hm : ok m) : (attachCheckRing s.cfg m).run (beginCommand .attach s) =
      .ok () (beginCommand .attach s) := by
    obtain ⟨hal, top⟩ := hm
    exact attachCheckRing_passes hal top
  refine ⟨fun ha => ?_, fun ha n hn before => ⟨fun hal => ?_, fun hal top => ?_⟩, fun ha rings apart => ?_⟩
  · have body : attachBody.run (beginCommand .attach s) =
        .error (.fault .alreadyAttached) (beginCommand .attach s) := by
      simp [attachBody, ha]
    exact (runCommand_eq .attach attachBody s).trans (congrArg (finished .attach) body)
  · exact exec_attach_stops ha (run_bind_error.mpr (.inl (forEach_run_stops (lanes_sorted _) (mem_lanes.mpr hn)
      (fun m hm => passes m (before m hm)) (attachCheckRing_unaligned hal))))
  · exact exec_attach_stops ha (run_bind_error.mpr (.inl (forEach_run_stops (lanes_sorted _) (mem_lanes.mpr hn)
      (fun m hm => passes m (before m hm)) (attachCheckRing_high hal top))))
  · have passed := forEach_run_same (l := s.cfg.lanes) fun n hn => passes n (rings n (mem_lanes.mp hn))
    exact exec_attach_stops ha (run_bind_error.mpr (.inr ⟨(), _, passed, by simp [apart]⟩))

end Sys2Proof.Machine
end

section
/-! What ATTACH and DETACH leave of each lane (42_channel_control R192, R193): the lane's entries and addresses, one
loop after another; and when two states have the same control part. -/

namespace Sys2Proof.Machine

/-! ### A lane's entries and addresses -/

/-- A lane's channel-table entry, its software pointer, its base and its buffer. -/
structure LanePlot where
  chan : Chan
  sw : Word
  base : Word
  buf : Word

/-- The entries and addresses of lane `(d, n)`. -/
def plot (s : State) (d : Dir) (n : Lane) : LanePlot where
  chan := s.chan d n
  sw := (s.bank d).sw[n.val]
  base := (s.bank d).base[n.val]
  buf := s.buf d n

/-- The same, of what the invariants see of the lane. -/
def LaneView.plot (v : LaneView) : LanePlot := { chan := v.chan, sw := v.sw, base := v.base, buf := v.buf }

theorem plot_eq_view (s : State) (d : Dir) (n : Lane) : plot s d n = (laneView s d n).plot := rfl

/-- A state's settings: what belongs to no lane. -/
structure SameSettings (s t : State) : Prop where
  cfg : t.cfg = s.cfg
  attached : t.attached = s.attached
  bufSz : t.bufSz = s.bufSz
  rxTimeout : t.rxTimeout = s.rxTimeout
  ier : ∀ d, (t.bank d).ier = (s.bank d).ier

/-- The control part is the settings, the enable and reset registers, and of each lane its entries and addresses. -/
theorem controlPart_ext {s t : State} (kept : Kept s t) (settings : SameSettings s t)
    (en : ∀ d, (t.bank d).en = (s.bank d).en) (rst : ∀ d, (t.bank d).rst = (s.bank d).rst)
    (lanes : ∀ d n, plot t d n = plot s d n) : controlPart t = controlPart s := by
  obtain ⟨cfg, faulted, refused, inbox, readData, pace, -⟩ := kept
  obtain ⟨-, attached, bufSz, rxTimeout, ier⟩ := settings
  have bank (d : Dir) : (t.bank d).controlPart = (s.bank d).controlPart := by
    have sw : (t.bank d).sw = (s.bank d).sw := lane_ext fun n => congrArg LanePlot.sw (lanes d n)
    have base : (t.bank d).base = (s.bank d).base := lane_ext fun n => congrArg LanePlot.base (lanes d n)
    simp only [Bank.controlPart, en, rst, ier, sw, base]
  have tx : t.tx.controlPart = s.tx.controlPart := bank .tx
  have rx : t.rx.controlPart = s.rx.controlPart := bank .rx
  have txChan : t.txChan = s.txChan := lane_ext fun n => congrArg LanePlot.chan (lanes .tx n)
  have rxChan : t.rxChan = s.rxChan := lane_ext fun n => congrArg LanePlot.chan (lanes .rx n)
  have txBuf : t.txBuf = s.txBuf := lane_ext fun n => congrArg LanePlot.buf (lanes .tx n)
  simp only [controlPart, cfg, faulted, refused, inbox, readData, pace, attached, bufSz, rxTimeout, tx, rx, txChan,
    rxChan, txBuf]

section
variable (s : State) (d e : Dir) (n m : Lane) (v : Word)

theorem plot_congr {s t : State} (h : controlPart t = controlPart s) (d : Dir) (n : Lane) :
    plot t d n = plot s d n := by
  rw [plot_eq_view, laneView_congr h, plot_eq_view]

@[simp] theorem plot_boundary : plot (boundary s) e m = plot s e m := plot_congr (controlPart_boundary s) e m
@[simp] theorem plot_withEn : plot (s.withEn d v) e m = plot s e m := by cases d <;> cases e <;> rfl
@[simp] theorem plot_withRst : plot (s.withRst d v) e m = plot s e m := by cases d <;> cases e <;> rfl
@[simp] theorem plot_withIer : plot (s.withIer d v) e m = plot s e m := by cases d <;> cases e <;> rfl
@[simp] theorem plot_withIsr : plot (s.withIsr d v) e m = plot s e m := by cases d <;> cases e <;> rfl
@[simp] theorem plot_withHw : plot (s.withHw d n v) e m = plot s e m := by cases d <;> cases e <;> rfl
@[simp] theorem plot_withStill : plot (s.withStill d n) e m = plot s e m := by cases d <;> cases e <;> rfl
@[simp] theorem plot_dropReserved : plot (dropReserved s) e m = plot s e m := by cases e <;> rfl
@[simp] theorem plot_withBufSz : plot (s.withBufSz v) e m = plot s e m := by cases e <;> rfl
@[simp] theorem plot_withRxTimeout : plot (s.withRxTimeout v) e m = plot s e m := by cases e <;> rfl

theorem plot_withSw : plot (s.withSw d n v) e m =
    if e = d ∧ m = n then { plot s e m with sw := v } else plot s e m := by
  rw [plot_eq_view, laneView_withSw]; split <;> rfl

theorem plot_withBase : plot (s.withBase d n v) e m =
    if e = d ∧ m = n then { plot s e m with base := v } else plot s e m := by
  rw [plot_eq_view, laneView_withBase]; split <;> rfl

theorem plot_setChan (c : Chan) : plot (s.setChan d n c) e m =
    if e = d ∧ m = n then { plot s e m with chan := c } else plot s e m := by
  rw [plot_eq_view, laneView_setChan]; split <;> rfl

theorem plot_setTxBuf : plot (s.setTxBuf n v) e m =
    if e = .tx ∧ m = n then { plot s e m with buf := v } else plot s e m := by
  rw [plot_eq_view, laneView_setTxBuf]; split <;> rfl

/-- A reset write zeroes the software pointers of the lanes it names (R130, R132). -/
theorem plot_assertReset : plot (assertReset s d v) e m =
    if e = d ∧ testLane v m = true then { plot s e m with sw := 0 } else plot s e m := by
  by_cases he : e = d
  · subst he
    simp only [plot, assertReset_chan, assertReset_buf, assertReset_bank, zeroPointers_sw, zeroPointers_base]
    by_cases hv : testLane v m = true <;> simp [hv]
  · simp [plot, assertReset_bank_other s v he, he]

end

/-! ### Loops that settle one lane after another -/

section
variable {F : Stop → Prop} {s : State} {c : Params}

theorem ensures_and {α : Type} {x : Op α} {Q Q' : α → State → Prop} (h : x.ensures F s Q)
    (h' : x.ensures F s Q') : x.ensures F s fun a t => Q a t ∧ Q' a t :=
  ensures_and_run h fun a t e q => ⟨q, by simpa only [Op.ensures, e] using h'⟩

/-- A piece that cannot stop runs to its end. -/
theorem ensures_completes {α : Type} {x : Op α} {Q : α → State → Prop} (h : x.ensures (fun _ => False) s Q) :
    ∃ a t, x.run s = .ok a t ∧ Q a t := by
  unfold Op.ensures at h
  cases e : x.run s with
  | ok a t => rw [e] at h; exact ⟨a, t, rfl, h⟩
  | error r t => rw [e] at h; exact h.elim

/-- A loop over different lanes whose round `n` changes lane `n` by `φ`, and no other, changes the lanes of the list
so. -/
theorem ensures_forEach_plots {f : Lane → Op Unit} {J : State → Prop} (φ : Dir → Lane → LanePlot → LanePlot)
    {l : List Lane} (nodup : l.Nodup) (hs : J s) (hf : ∀ n ∈ l, ∀ t, J t → (f n).ensures F t fun _ u =>
      J u ∧ ∀ e m, plot u e m = if m = n then φ e m (plot t e m) else plot t e m) :
    (forEach l f).ensures F s fun _ t =>
      J t ∧ ∀ e m, plot t e m = if m ∈ l then φ e m (plot s e m) else plot s e m := by
  induction l generalizing s with
  | nil => exact ⟨hs, fun e m => rfl⟩
  | cons n l ih =>
    obtain ⟨new, nodup⟩ := List.nodup_cons.mp nodup
    refine ensures_bind.mpr (ensures_mono (hf n List.mem_cons_self s hs) fun _ t ⟨ht, round⟩ => ?_)
    refine ensures_mono (ih nodup ht fun m hm => hf m (List.mem_cons_of_mem n hm)) fun _ u ⟨hu, rest⟩ =>
      ⟨hu, fun e m => ?_⟩
    rw [rest, round]
    obtain rfl | hne := eq_or_ne m n
    · simp [new]
    · simp [hne]

/-- Such a loop over the lanes that exist. -/
theorem ensures_forLanes_plots {f : Lane → Op Unit} {J : State → Prop} (φ : Dir → Lane → LanePlot → LanePlot)
    (hs : J s) (hf : ∀ n t, c.hasLane n = true → J t → (f n).ensures F t fun _ u =>
      J u ∧ ∀ e m, plot u e m = if m = n then φ e m (plot t e m) else plot t e m) :
    (forEach c.lanes f).ensures F s fun _ t =>
      J t ∧ ∀ e m, plot t e m = if c.hasLane m = true then φ e m (plot s e m) else plot s e m :=
  ensures_mono (ensures_forEach_plots φ (nodup_lanes c) hs fun n hn t => hf n t (mem_lanes.mp hn))
    fun _ t ⟨ht, plots⟩ => ⟨ht, fun e m => by simpa using plots e m⟩

end

/-! ### Lanes as ATTACH and DETACH leave them -/

/-- Where the ring of an unclaimed lane is: a receive ring's place is fixed, a transmit lane has none (R192, R193). -/
def homeBuffer (c : Params) (n : Lane) : Dir → Word
  | .tx => 0
  | .rx => c.rxBufPhys[n.val]

/-- An unclaimed lane. -/
def vacantPlot (c : Params) (d : Dir) (n : Lane) : LanePlot :=
  { chan := Chan.reset, sw := 0, base := homeBuffer c n d, buf := homeBuffer c n d }

/-- All lanes that exist disabled, out of reset and unclaimed. -/
def vacated (s : State) : State :=
  { s with
    tx := { s.tx with
      en := 0, rst := 0, sw := forLanes s.cfg (fun _ => 0) s.tx.sw, base := forLanes s.cfg (fun _ => 0) s.tx.base }
    rx := { s.rx with
      en := 0
      rst := 0
      sw := forLanes s.cfg (fun _ => 0) s.rx.sw
      base := forLanes s.cfg (fun n => s.cfg.rxBufPhys[n.val]) s.rx.base }
    txChan := forLanes s.cfg (fun _ => Chan.reset) s.txChan
    rxChan := forLanes s.cfg (fun _ => Chan.reset) s.rxChan
    txBuf := forLanes s.cfg (fun _ => 0) s.txBuf }

theorem forLanes_get {α : Type} (c : Params) (f : Lane → α) (old : Vector α 32) (n : Lane) :
    (forLanes c f old)[n.val] = if c.hasLane n then f n else old[n.val] := tabulate_get ..

theorem plot_vacated (s : State) (d : Dir) (n : Lane) : plot (vacated s) d n =
    if s.cfg.hasLane n = true then vacantPlot s.cfg d n else plot s d n := by
  cases d <;> simp only [plot, vacated, State.chan, State.bank, State.buf, forLanes_get] <;> split <;> rfl

/-- A command that emits nothing of its own but its `Result` ends its history so (R190). -/
theorem endCommand_grew {i : Instr} {body : Op Ret} {s t : State} {r : Ret}
    (run : body.run (beginCommand i s) = .ok r t) (silent : body.silent) :
    ∃ es, (endCommand i r (boundary t)).hist = s.hist ++ es ++ [.result i r.code r.value] ∧
      es.filter Event.isOwn = [] := by
  obtain ⟨es, hist, own⟩ := (silent_run_ok silent run).trans (grew_boundary t)
  exact ⟨es, by rw [endCommand_hist, hist, beginCommand_hist], own⟩

end Sys2Proof.Machine
end

section
/-! ATTACH completes where its checks pass, and establishes the reset state (42_channel_control R192, 10_state R50). -/

namespace Sys2Proof.Machine

/-! ### Lanes with no status -/

/-- A disabled lane whose status bit is clear. -/
structure Hushed (s : State) (d : Dir) (n : Lane) : Prop where
  disabled : laneEnabled s d n = false
  clear : testLane (s.bank d).isr n = false

section
variable {s t : State} {d e : Dir} {n : Lane} {v : Word}

theorem Hushed.congr (h : Hushed s d n) (en : (t.bank d).en = (s.bank d).en) (isr : (t.bank d).isr = (s.bank d).isr) :
    Hushed t d n :=
  ⟨by rw [laneEnabled, en]; exact h.disabled, by rw [isr]; exact h.clear⟩

/-- A disabled lane latches no status (R161). -/
theorem Hushed.boundary (h : Hushed s d n) : Hushed (boundary s) d n := by
  refine ⟨by simpa using h.disabled, ?_⟩
  rw [Machine.boundary, advanceCur_bank]
  exact ((interleave_frame s).isrInactive d n (laneActive_of_disabled h.disabled)).trans h.clear

theorem Hushed.withIer (h : Hushed s d n) : Hushed (s.withIer e v) d n := h.congr (by simp) (by simp)

/-- An acknowledgement sets no status bit (R136). -/
theorem Hushed.acknowledged (h : Hushed s d n) : Hushed (s.withIsr e (writeOneToClear (s.bank e).isr v)) d n := by
  by_cases he : e = d
  · subst he
    exact ⟨by simpa [laneEnabled] using h.disabled, by simp [h.clear]⟩
  · exact h.congr (by simp) (by rw [withIsr_bank_other _ _ _ (Ne.symm he)])

/-- It clears those it names. -/
theorem hushed_of_acknowledged (disabled : laneEnabled s d n = false) (named : testLane v n = true) :
    Hushed (s.withIsr d (writeOneToClear (s.bank d).isr v)) d n :=
  ⟨by simpa [laneEnabled] using disabled, by simp [named]⟩

end

/-! ### The stages of ATTACH -/

section
variable {F : Stop → Prop} {c : Params} {s : State}

theorem silent_faultIf (b : Bool) (r : Fault) : (faultIf b r).silent := fun _ => each_faultIf b r

theorem silent_forEach {ι : Type} (l : List ι) {f : ι → Op Unit} (h : ∀ a, (f a).silent) :
    (forEach l f).silent :=
  fun c => each_forEach l fun a => h a c

theorem silent_attachBody : attachBody.silent := by
  intro c
  refine each_params (each_lookAttached fun _ => each_bind (silent_faultIf _ _ c) fun _ => each_bind ?_ fun _ =>
    each_bind ?_ fun _ => each_bind ?_ fun _ => each_bind ?_ fun _ => each_bind ?_ fun _ => each_done _)
  · exact each_bind (each_forEach _ fun _ => each_bind (silent_faultIf _ _ c) fun _ => silent_faultIf _ _ c)
      fun _ => silent_faultIf _ _ c
  · iterate 9 refine each_bind (silent_st32 _ _ c) fun _ => ?_
    exact silent_st32 _ _ c
  · exact each_forEach _ fun _ => each_bind (silent_st32 _ _ c) fun _ => silent_st32 _ _ c
  · iterate 3 refine each_bind (silent_st32 _ _ c) fun _ => ?_
    exact silent_st32 _ _ c
  · exact each_bind (each_forEach _ fun n => silent_updateChan .tx n _ c) fun _ =>
      each_bind (each_forEach _ fun n => silent_updateChan .rx n _ c) fun _ =>
        each_bind (each_forEach _ fun n => silent_setTxBuf n 0 c) fun _ =>
          silent_update (f := fun s => { s with attached := true }) (fun _ => ⟨rfl, rfl⟩) c

/-- What the first stage leaves: every lane that exists at rest, its software pointer 0. -/
theorem attachConfigure_plots (hc : s.cfg = c) : (attachConfigure c).ensures F s fun _ t =>
    (∀ d n, c.hasLane n = true → AtRest t d n) ∧
      ∀ e m, plot t e m = if c.hasLane m = true then { plot s e m with sw := 0 } else plot s e m := by
  subst hc
  refine ensures_of_run (run_seq (st32_ier _ (by simp)) (run_seq (st32_ier _ (by simp)) (run_seq (st32_en _ (by simp))
    (run_seq (st32_en _ (by simp)) (run_seq (st32_bufSz_disabled ?_ (by simp)) (run_seq (st32_rxTimeout_run _ _)
    (run_seq (st32_rst _ (by simp)) (run_seq (st32_rst _ (by simp)) (run_seq (st32_rst _ (by simp))
    (st32_rst _ (by simp))))))))))) ⟨fun d n hn => ?_, fun e m => ?_⟩
  · intro d
    cases d <;> simp [withEn_bank_other]
  · have named : testLane (laneMask s.cfg) n = true := by simpa using hn
    cases d with
    | tx =>
      refine (atRest_of_reset ?_ named).boundary.assertReset.boundary.assertReset.boundary.assertReset
      simp [laneEnabled, withEn_bank_other]
    | rx =>
      refine (atRest_of_reset ?_ named).boundary.assertReset.boundary.assertReset
      simp [laneEnabled, assertReset_bank_other]
  · cases e <;> simp [plot_assertReset]

theorem restful_attachBase (n : Lane) : (attachBase c n).restful :=
  restful_bind (restful_st32 (r := .base .tx n) trivial) fun _ => restful_st32 (r := .base .rx n) trivial

theorem restful_attachInterrupts : (attachInterrupts c).restful :=
  restful_bind (restful_st32 (r := .isr .tx) trivial) fun _ => restful_bind (restful_st32 (r := .isr .rx) trivial)
    fun _ => restful_bind (restful_st32 (r := .ier .tx) trivial) fun _ => restful_st32 (r := .ier .rx) trivial

theorem st32_base_ok {d : Dir} {n : Lane} {v : Word} {t : State} (h : (st32 (.base d n) v).run s = .ok () t) :
    t = (boundary s).withBase d n v := by
  by_cases he : laneEnabled s d n = true
  · simp [st32, Op.run, regWrite, Except.map, he] at h
  · by_cases ha : aligned s.cfg v = true
    · rw [st32_base s (Bool.eq_false_of_not_eq_true he) ha] at h
      cases h
      rfl
    · simp [st32, Op.run, regWrite, Except.map, he, ha] at h

theorem attachBase_plots : (forEach c.lanes (attachBase c)).ensures (fun _ => True) s fun _ t =>
    ∀ e m, plot t e m = if c.hasLane m = true then { plot s e m with base := homeBuffer c m e } else plot s e m := by
  refine ensures_mono (ensures_forLanes_plots (J := fun _ => True) (fun e m p => { p with base := homeBuffer c m e })
    trivial fun n t _ _ => ensures_of_all fun _ u run => ⟨trivial, fun e m => ?_⟩) fun _ _ ⟨_, plots⟩ => plots
  obtain ⟨_, a, tx, rx⟩ := run_bind_ok.mp run
  rw [st32_base_ok rx, st32_base_ok tx]
  obtain rfl | hne := eq_or_ne m n
  · cases e <;> simp [plot_withBase, homeBuffer]
  · simp [plot_withBase, hne]

/-- What ATTACH's registers look like before it clears its tables: as they stay. -/
structure Settled (c : Params) (s : State) : Prop where
  ready : Ready c s
  rest : ∀ d n, c.hasLane n = true → AtRest s d n
  hushed : ∀ d n, c.hasLane n = true → Hushed s d n

theorem Settled.boundary (h : Settled c s) : Settled c (boundary s) :=
  ⟨h.ready.boundary, fun d n hn => (h.rest d n hn).boundary, fun d n hn => (h.hushed d n hn).boundary⟩

/-- The tables do not matter. -/
theorem Settled.congr {t : State} (h : Settled c s) (cfg : t.cfg = s.cfg) (bufSz : t.bufSz = s.bufSz)
    (rxTimeout : t.rxTimeout = s.rxTimeout) (bank : ∀ d, t.bank d = s.bank d) (moved : t.txMoved = s.txMoved) :
    Settled c t :=
  ⟨h.ready.congr cfg bufSz rxTimeout fun d => by rw [bank],
    fun d n hn => (h.rest d n hn).congr cfg (bank d) fun _ => by rw [moved],
    fun d n hn => (h.hushed d n hn).congr (by rw [bank]) (by rw [bank])⟩

theorem attachInterrupts_hushes (cfg : s.cfg = c) (disabled : ∀ d n, laneEnabled s d n = false) :
    (attachInterrupts c).ensures F s fun _ t =>
      (∀ d n, c.hasLane n = true → Hushed t d n) ∧ ∀ e m, plot t e m = plot s e m := by
  subst cfg
  refine ensures_of_run (run_seq (st32_isr _ _ _) (run_seq (st32_isr _ _ _) (run_seq (st32_ier _ (by simp))
    (st32_ier _ (by simp))))) ⟨fun d n hn => ?_, fun e m => by simp⟩
  have named : testLane (laneMask s.cfg) n = true := by simpa using hn
  cases d with
  | tx => exact (hushed_of_acknowledged (by simpa using disabled .tx n) named).boundary.acknowledged.boundary.withIer
      |>.boundary.withIer
  | rx =>
    refine (hushed_of_acknowledged ?_ named).boundary.withIer.boundary.withIer
    simpa [laneEnabled] using disabled .rx n

theorem attachInterrupts_settled (hs : Quiesced c s) (based : ∀ n, c.hasLane n = true → Based c s n)
    (rest : ∀ d n, c.hasLane n = true → AtRest s d n) :
    (attachInterrupts c).ensures F s fun _ t => Settled c t ∧ ∀ e m, plot t e m = plot s e m :=
  ensures_and_run (ensures_and (attachInterrupts_ready hs based) (attachInterrupts_hushes hs.cfg hs.disabled))
    fun _ _ run ⟨ready, hushed, plots⟩ =>
      ⟨⟨ready, fun d n hn => (rest d n hn).run restful_attachInterrupts run, hushed⟩, plots⟩

theorem clearEntries_plots (h : Settled c s) (d : Dir) : (forEach c.lanes (clearEntry d)).ensures F s fun _ t =>
    Settled c t ∧ ∀ e m, plot t e m =
      if c.hasLane m = true then if e = d then { plot s e m with chan := Chan.reset } else plot s e m
      else plot s e m := by
  refine ensures_forLanes_plots (fun e _ p => if e = d then { p with chan := Chan.reset } else p) h
    fun n t _ ht => ensures_of_run (clearEntry_run d n t) ⟨?_, fun e m => ?_⟩
  · exact ht.boundary.congr (by simp) (by simp) (by simp) (by simp) (by simp)
  · rw [plot_setChan, plot_boundary]
    by_cases he : e = d <;> by_cases hm : m = n <;> simp [he, hm]

theorem clearTxBufs_plots (h : Settled c s) : (forEach c.lanes clearTxBuf).ensures F s fun _ t =>
    Settled c t ∧ ∀ e m, plot t e m =
      if c.hasLane m = true then if e = .tx then { plot s e m with buf := 0 } else plot s e m
      else plot s e m := by
  refine ensures_forLanes_plots (fun e _ p => if e = .tx then { p with buf := 0 } else p) h
    fun n t _ ht => ensures_of_run (clearTxBuf_run n t) ⟨?_, fun e m => ?_⟩
  · exact ht.boundary.congr (by simp) (by simp) (by simp) (by simp) (by simp)
  · rw [plot_setTxBuf, plot_boundary]
    by_cases he : e = .tx <;> by_cases hm : m = n <;> simp [he, hm]

/-- The driver attached, and nothing else. -/
theorem plot_attached (s : State) (b : Bool) (e : Dir) (m : Lane) : plot { s with attached := b } e m = plot s e m := by
  cases e <;> rfl

/-- What the last stage leaves: cleared entries, and transmit buffers 0. -/
theorem attachTables_plots (h : Settled c s) : (attachTables c).ensures F s fun _ t =>
    Settled c t ∧ t.attached = true ∧ ∀ e m, plot t e m =
      if c.hasLane m = true then
        { plot s e m with chan := Chan.reset, buf := if e = .tx then 0 else (plot s e m).buf }
      else plot s e m := by
  refine ensures_bind.mpr (ensures_mono (clearEntries_plots h .tx) fun _ t1 ⟨h1, tx⟩ => ?_)
  refine ensures_bind.mpr (ensures_mono (clearEntries_plots h1 .rx) fun _ t2 ⟨h2, rx⟩ => ?_)
  refine ensures_bind.mpr (ensures_mono (clearTxBufs_plots h2) fun _ t3 ⟨h3, bufs⟩ => ensures_update.mpr ?_)
  refine ⟨h3.boundary.congr rfl rfl rfl (fun d => by cases d <;> rfl) rfl, rfl, fun e m => ?_⟩
  rw [plot_attached, plot_boundary, bufs, rx, tx]
  cases c.hasLane m <;> cases e <;> rfl

/-! ### ATTACH as a whole -/

/-- What ATTACH leaves, from `s` (R192). -/
structure AttachedFrom (s t : State) : Prop where
  settled : Settled s.cfg t
  attached : t.attached = true
  plots : ∀ d n, plot t d n = if s.cfg.hasLane n = true then vacantPlot s.cfg d n else plot s d n

theorem attachBody_run (ha : s.attached = false) (rings : receiveRingsOk s.cfg = true) :
    ∃ t, attachBody.run s = .ok okRet t ∧ AttachedFrom s t := by
  obtain ⟨_, t1, run1, q1, rest1, plots1⟩ := ensures_completes
    (ensures_and (attachConfigure_quiesces rfl) (attachConfigure_plots (s := s) rfl))
  obtain ⟨_, t2, run2, q2, based⟩ := ensures_completes
    (attachBases q1 fun n hn => (mem_rxRings rings hn).1)
  have plots2 : ∀ e m, plot t2 e m = if s.cfg.hasLane m = true then
      { plot t1 e m with base := homeBuffer s.cfg m e } else plot t1 e m := by
    have := attachBase_plots (c := s.cfg) (s := t1)
    rwa [Op.ensures, run2] at this
  obtain ⟨_, t3, run3, s3, plots3⟩ := ensures_completes (attachInterrupts_settled q2 based fun d n hn =>
    (rest1 d n hn).run (restful_forEach _ restful_attachBase) run2)
  obtain ⟨_, t4, run4, s4, attached, plots4⟩ := ensures_completes (attachTables_plots s3)
  have unattached : (faultIf s.attached .alreadyAttached).run s = .ok () s := by rw [ha]; rfl
  refine ⟨t4, run_seq (params_run s) (run_seq (lookAttached_run s) (run_seq unattached
    (run_seq (attachChecks_passes rings) (run_seq run1 (run_seq run2 (run_seq run3 (run_seq run4 (run_done _ _)))))))), s4,
    attached, fun d n => ?_⟩
  rw [plots4, plots3, plots2, plots1]
  cases hn : s.cfg.hasLane n with
  | false => simp
  | true => cases d <;> simp [vacantPlot, homeBuffer, plot, State.buf]

/-- The control part that ATTACH leaves. -/
theorem AttachedFrom.control {t : State} (h : AttachedFrom s t) (kept : Kept s t) :
    controlPart t = controlPart { vacated s with
      tx := { (vacated s).tx with ier := laneMask s.cfg }
      rx := { (vacated s).rx with ier := laneMask s.cfg }
      bufSz := s.cfg.sizeClass
      rxTimeout := s.cfg.timeoutValue
      attached := true } := by
  obtain ⟨⟨⟨⟨cfg, disabled, notInReset, bufSz, rxTimeout⟩, -, ier⟩, -, -⟩, attached, plots⟩ := h
  obtain ⟨-, faulted, refused, inbox, readData, pace, hist⟩ := kept
  refine controlPart_ext ⟨cfg, faulted, refused, inbox, readData, pace, hist⟩
    ⟨cfg, attached, bufSz, rxTimeout, fun d => ?_⟩ (fun d => ?_) (fun d => ?_) fun d n => ?_
  · cases d
    · exact ier .tx
    · exact ier .rx
  · refine word_ext fun n => (disabled d n).trans ?_
    cases d <;> exact (testLane_zero n).symm
  · refine word_ext fun n => (notInReset d n).trans ?_
    cases d <;> exact (testLane_zero n).symm
  · refine (plots d n).trans ((plot_vacated s d n).symm.trans ?_)
    cases d <;> rfl

end

/-- Settles O27: the checks pass, and each stage of ATTACH leaves every lane as R192 says. -/
theorem attachEstablishesResetState : Obligations.AttachEstablishesResetState := by
  intro s ha rings zero
  obtain ⟨t, run, h⟩ := attachBody_run (s := beginCommand .attach s) ha rings
  have settled := h.settled.boundary
  refine ⟨endCommand .attach okRet (boundary t), ?_, ?_, fun d n => ?_, fun n hn => ⟨?_, fun hc d => ?_⟩, rfl, rfl,
    endCommand_grew run silent_attachBody⟩
  · exact (runCommand_eq .attach attachBody s).trans (congrArg (finished .attach) run)
  · rw [controlPart_endCommand, controlPart_boundary, h.control (effects_kept_ok (fun _ => effects_attachBody) run)]
    rfl
  · rw [sourcePending, endCommand_cfg, endCommand_bank, settled.ready.quiesced.cfg]
    cases hn : s.cfg.hasLane n with
    | false => simp [hn]
    | true => simp [(settled.hushed d n hn).clear]
  · exact (settled.rest .tx n hn).still rfl
  · rw [endCommand_bank]
    exact (settled.rest d n hn).hw (by rw [settled.ready.quiesced.cfg]; exact hc)

end Sys2Proof.Machine
end

section
/-! DETACH stops and frees every lane (42_channel_control R193, R201). -/

namespace Sys2Proof.Machine

/-! ### One lane -/

/-- A lane at rest and out of reset. -/
structure Down (s : State) (d : Dir) (n : Lane) : Prop where
  rest : AtRest s d n
  notInReset : laneInReset s d n = false

/-- What DETACH makes of one lane at first: stopped and freed (R193). -/
def vacatedLane (s : State) (d : Dir) (n : Lane) : State := (stopped s d n).setChan d n Chan.reset

/-- The same of the lane's entries and addresses. -/
def LanePlot.vacated (p : LanePlot) : LanePlot := { chan := Chan.reset, sw := 0, base := p.buf, buf := p.buf }

section
variable {F : Stop → Prop} {s t : State} {d e : Dir} {n m : Lane}

theorem Down.boundary (h : Down s d n) : Down (boundary s) d n :=
  ⟨h.rest.boundary, by simpa using h.notInReset⟩

/-- Only the registers and `tx_moved` matter. -/
theorem Down.congr (h : Down s d n) (cfg : t.cfg = s.cfg) (bank : t.bank d = s.bank d)
    (moved : t.txMoved = s.txMoved) : Down t d n :=
  ⟨h.rest.congr cfg bank fun _ => by rw [moved], by rw [laneInReset, bank]; exact h.notInReset⟩

theorem stopped_bank_other (s : State) (n : Lane) (h : e ≠ d) : (stopped s d n).bank e = s.bank e := by
  cases d <;> cases e
  · exact absurd rfl h
  · rfl
  · rfl
  · exact absurd rfl h

theorem stopped_legal (s : State) (d : Dir) (n : Lane) :
    ((stopped s d n).bank d).en = withoutLaneBit s.cfg (s.bank d).en n ∧ ((stopped s d n).bank d).rst = 0 := by
  cases d <;> exact ⟨rfl, rfl⟩

theorem plot_vacatedLane (s : State) (d e : Dir) (n m : Lane) : plot (vacatedLane s d n) e m =
    if e = d ∧ m = n then (plot s d n).vacated else plot s e m := by
  rw [vacatedLane, plot_setChan, stopped, plot_setChan, plot_withBase, pulsed, plot_withStill, plot_withSw, plot_withHw,
    plot_withRst, plot_withEn, plot_dropReserved]
  split
  · obtain ⟨rfl, rfl⟩ := ‹_ ∧ _›
    rfl
  · rfl

theorem detachLane_run (hn : s.cfg.hasLane n = true) (hal : aligned s.cfg (s.buf d n) = true) :
    ∃ t, (detachLane d n).run s = .ok () t ∧ controlPart t = controlPart (vacatedLane s d n) ∧ Down t d n ∧
      ∀ e m, Down s e m → Down t e m := by
  obtain ⟨a, stop, did⟩ := stopSequence_run d n s hn hal
  obtain ⟨rests, keeps⟩ := stopSequence_rests stop hn
  have entry : freedChan (a.chan d n) = Chan.reset := by
    rw [control_chan did.control, stopped_chan]
    cases d <;> rfl
  have outOfReset (m : Lane) : laneInReset a d m = false := by
    rw [control_laneInReset did.control, stopped_laneInReset]
  have write {e : Dir} {m : Lane} (h : Down a e m) : Down ((boundary a).setChan d n Chan.reset) e m :=
    h.boundary.congr (by simp) (by simp) (by simp)
  refine ⟨(boundary a).setChan d n Chan.reset,
    run_seq stop ((updateChan_run d n freedChan a).trans (by rw [entry])), ?_, write ⟨rests, outOfReset n⟩,
    fun e m h => write ⟨keeps e m h.rest, ?_⟩⟩
  · simp [vacatedLane, did.control]
  · by_cases he : e = d
    · subst he
      exact outOfReset m
    · rw [control_laneInReset did.control, laneInReset, stopped_bank_other s n he]
      exact h.notInReset

/-! ### All lanes, one after another -/

/-- What holds between two rounds of DETACH's loops, begun in `s`. -/
structure Detaching (s t : State) : Prop where
  settings : SameSettings s t
  legal : ∀ d, hasReserved s.cfg (t.bank d).en = false ∧ hasReserved s.cfg (t.bank d).rst = false
  bufAligned : ∀ d n, s.cfg.hasLane n = true → aligned s.cfg (t.buf d n) = true
  down : ∀ d n, Down s d n → Down t d n

theorem SameSettings.refl (s : State) : SameSettings s s := ⟨rfl, rfl, rfl, rfl, fun _ => rfl⟩

theorem SameSettings.trans {u : State} (h : SameSettings s t) (k : SameSettings t u) : SameSettings s u :=
  ⟨k.cfg.trans h.cfg, k.attached.trans h.attached, k.bufSz.trans h.bufSz, k.rxTimeout.trans h.rxTimeout,
    fun d => (k.ier d).trans (h.ier d)⟩

theorem SameSettings.of_control (h : controlPart t = controlPart s) : SameSettings s t :=
  ⟨control_cfg h, control_attached h, control_bufSz h, control_rxTimeout h, control_ier h⟩

theorem sameSettings_vacatedLane (s : State) (d : Dir) (n : Lane) : SameSettings s (vacatedLane s d n) := by
  have writes : SameSettings s (((((s.withEn d (withoutLaneBit s.cfg (s.bank d).en n)).withRst d 0).withSw d n
      0).withBase d n (s.buf d n)).setChan d n Chan.reset) := by constructor <;> simp
  exact writes.trans (.of_control (by simp [vacatedLane, stopped]))

theorem Detaching.refl (hal : ∀ d n, s.cfg.hasLane n = true → aligned s.cfg (s.buf d n) = true)
    (legal : ∀ d, hasReserved s.cfg (s.bank d).en = false ∧ hasReserved s.cfg (s.bank d).rst = false) :
    Detaching s s := ⟨.refl s, legal, hal, fun _ _ => id⟩

/-- A round of DETACH's first two loops. -/
theorem Detaching.lane (h : Detaching s t) (d : Dir) (hn : s.cfg.hasLane n = true) :
    (detachLane d n).ensures F t fun _ u => (Detaching s u ∧ Down u d n ∧ ∀ e m, Down t e m → Down u e m) ∧
      ∀ e m, plot u e m = if m = n then
        if e = d then (plot t e m).vacated else plot t e m
      else plot t e m := by
  obtain ⟨settings, legal, bufAligned, down⟩ := h
  obtain ⟨u, run, control, now, still⟩ := detachLane_run (s := t) (d := d) (n := n) (by rw [settings.cfg]; exact hn)
    (by rw [settings.cfg]; exact bufAligned d n hn)
  have plots (e : Dir) (m : Lane) := (plot_congr control e m).trans (plot_vacatedLane t d e n m)
  have kept (e : Dir) (m : Lane) (h : Down s e m) : Down u e m := still e m (down e m h)
  refine ensures_of_run run ⟨⟨⟨?_, fun e => ?_, fun e m hm => ?_, kept⟩, now, still⟩, fun e m => ?_⟩
  · exact settings.trans ((sameSettings_vacatedLane t d n).trans (.of_control control))
  · rw [control_en control, control_rst control, vacatedLane, setChan_bank]
    by_cases he : e = d
    · subst he
      obtain ⟨en, rst⟩ := stopped_legal t e n
      rw [en, rst, settings.cfg]
      exact ⟨hasReserved_withoutLaneBit _ _ _, hasReserved_zero _⟩
    · rw [stopped_bank_other t n he]
      exact legal e
  · have same : u.buf e m = t.buf e m := by
      have := congrArg LanePlot.buf (plots e m)
      split at this
      · obtain ⟨rfl, rfl⟩ := ‹_ ∧ _›
        exact this
      · exact this
    rw [same]
    exact bufAligned e m hm
  · rw [plots]
    by_cases he : e = d <;> by_cases hm : m = n <;> simp [he, hm]

/-- DETACH's loop over the lanes of a direction. -/
theorem Detaching.lanes (h : Detaching s t) (d : Dir) : (forEach s.cfg.lanes (detachLane d)).ensures F t fun _ u =>
    Detaching s u ∧ (∀ n, s.cfg.hasLane n = true → Down u d n) ∧ (∀ e m, Down t e m → Down u e m) ∧
      ∀ e m, plot u e m = if s.cfg.hasLane m = true then
        if e = d then (plot t e m).vacated else plot t e m
      else plot t e m := by
  refine ensures_mono (ensures_and
    (forEach_lanes_settle (I := fun u => Detaching s u ∧ ∀ e m, Down t e m → Down u e m)
      (Q := fun n u => Down u d n) ⟨h, fun _ _ => id⟩ fun n u hn ⟨hu, keeps⟩ =>
        ensures_mono (hu.lane d hn) fun _ v ⟨⟨hv, now, still⟩, _⟩ =>
          ⟨⟨hv, fun e m => still e m ∘ keeps e m⟩, now, fun m _ _ => still d m⟩)
    (ensures_forLanes_plots (J := Detaching s) (fun e _ p => if e = d then p.vacated else p) h fun n u hn hu =>
      ensures_mono (hu.lane d hn) fun _ v ⟨⟨hv, _, _⟩, plots⟩ => ⟨hv, plots⟩))
    fun _ u ⟨⟨⟨hu, keeps⟩, settled⟩, _, plots⟩ => ⟨hu, settled, keeps, plots⟩

/-- What holds between two rounds of DETACH's last loop. -/
structure Dropping (s t : State) : Prop where
  settings : SameSettings s t
  legal : ∀ d, hasReserved s.cfg (t.bank d).en = false ∧ hasReserved s.cfg (t.bank d).rst = false
  down : ∀ d n, s.cfg.hasLane n = true → Down t d n

theorem dropTxBuffers_plots (h : Dropping s t) : (forEach s.cfg.lanes dropTxBuffer).ensures F t fun _ u =>
    Dropping s u ∧ ∀ e m, plot u e m = if s.cfg.hasLane m = true then
      if e = .tx then { plot t e m with base := 0, buf := 0 } else plot t e m
    else plot t e m := by
  refine ensures_forLanes_plots (fun e _ p => if e = .tx then { p with base := 0, buf := 0 } else p) h
    fun n u hn ⟨settings, legal, down⟩ => ensures_of_run (dropTxBuffer_run (down .tx n hn).rest.disabled)
      ⟨⟨?_, fun d => ?_, fun d m hm => ?_⟩, fun e m => ?_⟩
  · exact settings.trans ⟨by simp, by simp, by simp, by simp, by simp⟩
  · simpa using legal d
  · obtain ⟨rest, out⟩ := (down d m hm).boundary
    have based : Down ((boundary u).withBase .tx n 0) d m :=
      ⟨rest.setBank (fun he => by subst he; exact rest.disabled) fun he => by subst he; exact .inl rfl,
        by simpa [laneInReset] using out⟩
    exact based.boundary.congr rfl (setTxBuf_bank ..) rfl
  · rw [plot_setTxBuf, plot_boundary, plot_withBase, plot_boundary]
    by_cases he : e = .tx <;> by_cases hm : m = n <;> simp [he, hm]

/-! ### DETACH as a whole -/

theorem silent_detachBody : detachBody.silent := fun c => by
  have lane (d : Dir) (n : Lane) : (detachLane d n).silent :=
    silent_bind (silent_stopSequence d n) fun _ => silent_updateChan _ _ _
  have buffer (n : Lane) : (dropTxBuffer n).silent := silent_bind (silent_st32 _ _) fun _ => silent_setTxBuf n 0
  exact each_params (each_bind (silent_forEach _ (lane .tx) c) fun _ =>
    each_bind (silent_forEach _ (lane .rx) c) fun _ => each_bind (silent_forEach _ buffer c) fun _ =>
      each_bind (silent_st32 _ _ c) fun _ => each_bind (silent_st32 _ _ c) fun _ =>
        each_bind (silent_update (f := fun s => { s with attached := false }) (fun _ => ⟨rfl, rfl⟩) c) fun _ =>
          each_done _)

/-- A register without reserved bits whose lanes' bits are clear is 0. -/
theorem word_eq_zero {c : Params} {v : Word} (legal : hasReserved c v = false)
    (clear : ∀ n, c.hasLane n = true → testLane v n = false) : v = 0 := by
  refine word_ext fun n => Eq.trans ?_ (testLane_zero n).symm
  cases hn : c.hasLane n with
  | false => exact hasReserved_eq_false.mp legal n hn
  | true => exact clear n hn

/-- The last register writes of DETACH, and the driver detached. -/
def detached (s : State) : State := { (s.withIer .tx 0).withIer .rx 0 with attached := false }

theorem detached_bank (s : State) (d : Dir) : (detached s).bank d = { s.bank d with ier := 0 } := by cases d <;> rfl

theorem detach_last (s : State) : ∃ t, ((st32 (.ier .tx) 0).bind fun _ => (st32 (.ier .rx) 0).bind fun _ =>
      (update fun u => { u with attached := false }).bind fun _ => .done okRet).run s = .ok okRet t ∧
    controlPart t = controlPart (detached s) ∧ ∀ d n, Down s d n → Down t d n := by
  refine ⟨_, run_seq (st32_ier s (hasReserved_zero _)) (run_seq (st32_ier _ (hasReserved_zero _))
    (run_seq (update_run _ _) (run_done _ _))), controlPart_attached (by simp), fun d n h => ?_⟩
  have masked {u : State} (e : Dir) (h : Down u d n) : Down (u.withIer e 0) d n :=
    ⟨h.rest.setBank (fun he => by subst he; exact h.rest.disabled) fun he => by subst he; exact .inl rfl,
      by simpa [laneInReset] using h.notInReset⟩
  exact (masked .rx (masked .tx h.boundary).boundary).boundary.congr rfl (by cases d <;> rfl) rfl

theorem detachBody_run (hal : ∀ d n, s.cfg.hasLane n = true → aligned s.cfg (s.buf d n) = true)
    (legal : ∀ d, hasReserved s.cfg (s.bank d).en = false ∧ hasReserved s.cfg (s.bank d).rst = false) :
    ∃ t, detachBody.run s = .ok okRet t ∧ (∀ d n, s.cfg.hasLane n = true → Down t d n) ∧
      controlPart t = controlPart { vacated s with
        tx := { (vacated s).tx with ier := 0 }, rx := { (vacated s).rx with ier := 0 }, attached := false } := by
  obtain ⟨_, t1, run1, h1, tx1, -, plots1⟩ := ensures_completes ((Detaching.refl hal legal).lanes .tx)
  obtain ⟨_, t2, run2, h2, rx2, keeps2, plots2⟩ := ensures_completes (h1.lanes .rx)
  have down2 (d : Dir) (n : Lane) (hn : s.cfg.hasLane n = true) : Down t2 d n := by
    cases d
    · exact keeps2 .tx n (tx1 n hn)
    · exact rx2 n hn
  obtain ⟨_, t3, run3, ⟨settings, legal3, down3⟩, plots3⟩ :=
    ensures_completes (dropTxBuffers_plots ⟨h2.settings, h2.legal, down2⟩)
  obtain ⟨t4, run4, control, keeps4⟩ := detach_last t3
  have run : detachBody.run s = .ok okRet t4 :=
    run_seq (params_run s) (run_seq run1 (run_seq run2 (run_seq run3 run4)))
  refine ⟨t4, run, fun d n hn => keeps4 d n (down3 d n hn), ?_⟩
  obtain ⟨cfg, faulted, refused, inbox, readData, pace, hist⟩ := effects_kept_ok (fun _ => effects_detachBody) run
  refine controlPart_ext ⟨cfg, faulted, refused, inbox, readData, pace, hist⟩
    ⟨cfg, (control_attached control).trans rfl, (control_bufSz control).trans settings.bufSz,
      (control_rxTimeout control).trans settings.rxTimeout, fun d => (control_ier control d).trans ?_⟩
    (fun d => (control_en control d).trans ?_) (fun d => (control_rst control d).trans ?_)
    fun d n => (plot_congr control d n).trans ?_
  · cases d <;> rfl
  · obtain ⟨en, -⟩ := legal3 d
    rw [detached_bank]
    refine (word_eq_zero en fun n hn => (down3 d n hn).rest.disabled).trans ?_
    cases d <;> rfl
  · obtain ⟨-, rst⟩ := legal3 d
    rw [detached_bank]
    refine (word_eq_zero rst fun n hn => (down3 d n hn).notInReset).trans ?_
    cases d <;> rfl
  · have same : plot (detached t3) d n = plot t3 d n := by cases d <;> rfl
    refine Eq.trans ?_ ((plot_vacated s d n).symm.trans (by cases d <;> rfl))
    rw [same, plots3, plots2, plots1]
    cases hn : s.cfg.hasLane n with
    | false => simp
    | true => cases d <;> simp [LanePlot.vacated, vacantPlot, homeBuffer, plot, State.buf]

end

theorem not_mayClear_detach (d : Dir) (n : Lane) : ¬ MayClear d n .detach := by
  rintro (h | h | ⟨v, -, h⟩)
  · cases h
  · cases h
  · cases d <;> cases h

/-- Settles O29: each lane is stopped and freed in its turn; what is down stays down. -/
theorem detachFreesEveryLane : Obligations.DetachFreesEveryLane := by
  intro s ha hal legal zero
  obtain ⟨t, run, down, control⟩ := detachBody_run (s := beginCommand .detach s)
    (fun d n hn => by simpa using hal d n hn) (fun d => by simpa using legal d)
  have next : exec .detach s = .next (endCommand .detach okRet (boundary t)) :=
    (attachedProgram_run ha).trans (congrArg (finished .detach) run)
  have down (d : Dir) (n : Lane) (hn : s.cfg.hasLane n = true) : Down (endCommand .detach okRet (boundary t)) d n :=
    (down d n hn).boundary.congr rfl (endCommand_bank ..) rfl
  refine ⟨_, next, ?_, fun d n => (exec_staysPending (not_mayClear_detach d n) next).pending,
    fun n hn => ⟨(down .tx n hn).rest.still rfl, fun hc d => (down d n hn).rest.hw ?_⟩, rfl, rfl,
    endCommand_grew run silent_detachBody⟩
  · rw [controlPart_endCommand, controlPart_boundary, control]
    rfl
  · rw [endCommand_cfg, boundary_cfg, control_cfg control]
    exact hc

end Sys2Proof.Machine
end

section
/-! UPDSW and RDHW, the CorruptPointer path, and RXDRAIN with nothing to do (43_ring_protocol R242 to R247). -/

namespace Sys2Proof.Machine

/-! ### How a ring command ends -/

section
variable {own : List Event} {i : Instr} {f : LaneField} {n : Lane} {body : Lane → Op Ret} {s u u' t : State} {r : Ret}

/-- A lane command whose body answers in the state it began in. -/
theorem exec_lane_answered (hi : commandOf i = some (laneProgram i f body)) (ha : s.attached = true)
    (hn : laneOf s.cfg f = some n) (h : (body n).run (beginCommand i s) = .ok r (beginCommand i s)) :
    exec i s = .next (answeredOnly s i r.code r.value) := by
  rw [exec_lane hi ha hn, h, finished_ok, endCommand_answeredOnly]

/-- What a piece did after the lane agents of one slot moved, told from before. -/
theorem Did.before (h : Did own (boundary s) u t) (control : controlPart u = controlPart u')
    (quiet : quietPart (boundary s) = quietPart s → quietPart u = quietPart u') : Did own s u' t where
  control := h.control.trans control
  kept := (boundary_kept s).trans h.kept
  grew := (grew_boundary s).trans h.grew
  quiet hs := by
    have agents := quietPart_boundary hs
    obtain ⟨left, sched⟩ := h.quiet (by simp [hs])
    refine ⟨?_, sched⟩
    rw [left, quiet_hist agents, quietPart_setHist, quiet agents, quietPart_setHist]

end

/-! ### UPDSW (R243) -/

section
variable {s : State} {d : Dir} {n : Lane} {v : Word}

theorem silent_updswBody (d : Dir) (v : Word) (n : Lane) : (updswBody d v n).silent := fun c =>
  each_params (each_lookChan fun _ => each_ite (fun _ => each_done _) fun _ => each_ite
    (fun _ => each_bind (silent_updateChan _ _ _ c) fun _ => each_bind (silent_st32 _ _ c) fun _ => each_done _)
    fun _ => each_done _)

theorem updswBody_run (owned : (s.chan d n).slot.isOwned = true) (hv : v.toNat < cap s.cfg d) :
    ∃ t, (updswBody d v n).run s = .ok okRet t ∧
      Did [] s ((published s d n v.toNat).setChan d n (setSoftwareIndex d v.toNat (s.chan d n))) t := by
  have run : (updswBody d v n).run s = .ok okRet (published
      (boundary ((boundary s).setChan d n (setSoftwareIndex d v.toNat (s.chan d n)))) d n v.toNat) := by
    simp [updswBody, owned, hv, st32_sw_value]
  exact ⟨_, run, .of_silent run (fun _ => effects_updswBody d v n) (silent_updswBody d v n) (by simp) (by simp)
    fun hs => by simp [quietPart_boundary, hs]⟩

end

/-- Settles O38: the index is set in the channel table, then published. -/
theorem updswPublishes : Obligations.UpdswPublishes := by
  intro s d f n v ha hn owned hv
  refine exec_lane_ended rfl ha hn ?_
  obtain ⟨t, run, did⟩ := updswBody_run (s := beginCommand (.updsw d f v) s) (d := d) (n := n)
    (by simpa using owned) (by simpa using hv)
  refine ⟨t, run, did.congr ?_⟩
  cases d <;> simp [published, toWord_of_toNat, setSoftwareIndex, apply_ite quietPart]

/-! ### RDHW (R244) -/

theorem rdhwBody_inRange {s : State} {d : Dir} {n : Lane} {v : Word}
    (hw : ((boundary s).bank d).hw[n.val] = v) (hv : v.toNat < cap s.cfg d) :
    (rdhwBody d n).run s = .ok (okValue v.toNat) (boundary s) := by
  simp [rdhwBody, hw, hv]

/-- Settles O39: the read is the command's one access. -/
theorem rdhwReturnsPointer : Obligations.RdhwReturnsPointer := by
  intro s d f n v ha hn hw hv
  refine exec_lane_ended rfl ha hn ⟨_, rdhwBody_inRange ?_ hv, ?_⟩
  · rwa [boundary_beginCommand_bank]
  · have start : Did [] (boundary (beginCommand (.rdhw d f) s)) (boundary (beginCommand (.rdhw d f) s))
        (boundary (beginCommand (.rdhw d f) s)) :=
      ⟨rfl, .refl _, .refl _, fun hs => ⟨by rw [List.append_nil, setHist_self], hs⟩⟩
    exact start.before (by simp) fun e => e

/-! ### The CorruptPointer path (R242) -/

section
variable {s : State} {d : Dir} {n : Lane} {owner : Owner} {cb : Callback} {v : Word}

/-- `CorruptPointer`, as the commands answer it. -/
def corruptRet : Ret := { code := .corruptPointer, value := none }

/-- What the CorruptPointer path emits for an owned lane (R242). -/
def corruptEvents (owner : Owner) (d : Dir) (n : Lane) : List Event :=
  [.anomaly .corruptPointer (some d) (some n), .ioError owner d n]

/-- The piece answers `CorruptPointer` and leaves the lane of `s` stopped. -/
def StopsCorrupt (x : Op Ret) (s : State) (d : Dir) (n : Lane) (owner : Owner) : Prop :=
  ∃ t, x.run s = .ok corruptRet t ∧ Did (corruptEvents owner d n) s (stopped s d n) t

/-- The path taken right after a read of the hardware pointer. -/
theorem corruptPath_afterRead (hn : s.cfg.hasLane n = true) (hal : aligned s.cfg (s.buf d n) = true)
    (slot : (s.chan d n).slot = .owned owner cb) :
    ∃ t, (corruptPath d n).run (boundary s) = .ok corruptRet t ∧
      Did (corruptEvents owner d n) s (stopped s d n) t := by
  obtain ⟨t, run, did⟩ := corruptPath_run (s := boundary s) (d := d) (n := n) (owner := owner) (cb := cb)
    (by simpa using hn) (by simpa using hal) (by simpa using slot)
  exact ⟨t, run, did.before (by simp [stopped]) fun e => by simp [stopped, e]⟩

theorem rdhwBody_corrupt (hn : s.cfg.hasLane n = true) (hal : aligned s.cfg (s.buf d n) = true)
    (slot : (s.chan d n).slot = .owned owner cb) (hv : cap s.cfg d ≤ ((boundary s).bank d).hw[n.val].toNat) :
    StopsCorrupt (rdhwBody d n) s d n owner := by
  obtain ⟨t, run, did⟩ := corruptPath_afterRead hn hal slot
  exact ⟨t, by simp [rdhwBody, Nat.not_lt.mpr hv, run], did⟩

theorem rxdrainBody_corrupt (hn : s.cfg.hasLane n = true) (hal : aligned s.cfg (s.buf .rx n) = true)
    (slot : (s.chan .rx n).slot = .owned owner cb) (started : (s.chan .rx n).run ≠ .idle)
    (hv : cap s.cfg .rx ≤ ((boundary s).bank .rx).hw[n.val].toNat) :
    StopsCorrupt (rxdrainBody n) s .rx n owner := by
  obtain ⟨t, run, did⟩ := corruptPath_afterRead hn hal slot
  exact ⟨t, by simp [rxdrainBody, drainActive, started, Nat.not_lt.mpr hv, run], did⟩

theorem consumedOk_eq_false {c : Params} {entry : Chan} {r : Nat} : consumedOk c entry r = false ↔
    cap c .tx ≤ r ∨ ringSub (ringMask c .tx) entry.head entry.tail < ringSub (ringMask c .tx) r entry.tail := by
  simp [consumedOk, imp_iff_not_or]

theorem txcompBody_corrupt (hn : s.cfg.hasLane n = true) (hal : aligned s.cfg (s.buf .tx n) = true)
    (slot : (s.chan .tx n).slot = .owned owner cb) (started : (s.chan .tx n).run ≠ .idle)
    (hv : consumedOk s.cfg (s.chan .tx n) ((boundary s).bank .tx).hw[n.val].toNat = false) :
    StopsCorrupt (txcompBody n) s .tx n owner := by
  obtain ⟨t, run, did⟩ := corruptPath_afterRead hn hal slot
  exact ⟨t, by simp [txcompBody, completeActive, started, hv, run], did⟩

/-- A lane command whose body takes the CorruptPointer path ends so. -/
theorem exec_lane_corrupt {i : Instr} {f : LaneField} {body : Lane → Op Ret}
    (hi : commandOf i = some (laneProgram i f body)) (ha : s.attached = true) (hn : laneOf s.cfg f = some n)
    (h : StopsCorrupt (body n) (beginCommand i s) d n owner) :
    ∃ t, exec i s = .next t ∧ Ended i corruptRet (corruptEvents owner d n) s (stopped s d n) t := by
  obtain ⟨t, run, did⟩ := h
  exact exec_lane_ended hi ha hn ⟨t, run, did.congr (quietPart_stopped_beginCommand ..)⟩

end

/-- Settles O40: each of the three commands takes the CorruptPointer path right after its first read. -/
theorem corruptPointerStopsLane : Obligations.CorruptPointerStopsLane := by
  intro s d f n owner cb v ha hn hal slot hw i hi
  have lane := laneOf_hasLane hn
  have read (j : Instr) : ((boundary (beginCommand j s)).bank d).hw[n.val] = v := by
    rwa [boundary_beginCommand_bank]
  obtain ⟨rfl, hv⟩ | ⟨rfl, rfl, started, hv⟩ | ⟨rfl, rfl, started, hv⟩ := hi
  · exact exec_lane_corrupt rfl ha hn (rdhwBody_corrupt (cb := cb) lane (by simpa using hal) (by simpa using slot)
      (by rw [read]; exact hv))
  · exact exec_lane_corrupt rfl ha hn (rxdrainBody_corrupt (cb := cb) lane (by simpa using hal) (by simpa using slot)
      (by simpa using started) (by rw [read]; exact hv))
  · refine exec_lane_corrupt rfl ha hn (txcompBody_corrupt (cb := cb) lane (by simpa using hal) (by simpa using slot)
      (by simpa using started) ?_)
    rw [read, beginCommand_chan]
    exact consumedOk_eq_false.mpr hv

/-! ### RXDRAIN with nothing to do (R245, R247) -/

theorem rxdrainBody_idle {s : State} {n : Lane} (h : (s.chan .rx n).run = .idle) :
    (rxdrainBody n).run s = .ok (okValue 0) s := by
  simp [rxdrainBody, h]

/-- Settles O41. -/
theorem rxdrainNothingToDo : Obligations.RxdrainNothingToDo := by
  intro s f n ha hn
  refine ⟨fun idle => exec_lane_answered rfl ha hn (rxdrainBody_idle (by simpa using idle)),
    fun started tail hw => exec_lane_ended rfl ha hn ?_⟩
  obtain ⟨t, run, did⟩ := rxdrain_nothing (beginCommand (.rxdrain f) s) n (by simpa using started)
    (by simpa using tail) (by rw [boundary_beginCommand_bank, beginCommand_chan]; exact hw)
  exact ⟨t, run, did.congr (by simp)⟩

end Sys2Proof.Machine
end

section
/-! TXCOMP (43_ring_protocol R258 to R260), and what the lane agents make of the registers when they first move at a
given micro-step (41_engine R160, R162, R164). -/

namespace Sys2Proof.Machine

/-! ### The lane agents move the registers by the registers -/

/-- Parameters and registers are the same. -/
structure SameRegs (s t : State) : Prop where
  cfg : t.cfg = s.cfg
  bank : ∀ d, t.bank d = s.bank d

namespace SameRegs

variable {s t u : State}

theorem refl (s : State) : SameRegs s s := ⟨rfl, fun _ => rfl⟩

theorem trans (h : SameRegs s t) (k : SameRegs t u) : SameRegs s u :=
  ⟨k.cfg.trans h.cfg, fun d => (k.bank d).trans (h.bank d)⟩

theorem of_quiet (h : quietPart t = quietPart s) : SameRegs s t := ⟨quiet_cfg h, quiet_bank h⟩

theorem setChan (s : State) (d : Dir) (n : Lane) (c : Chan) : SameRegs s (s.setChan d n c) :=
  ⟨setChan_cfg .., fun _ => setChan_bank ..⟩

theorem published (h : SameRegs s t) (d : Dir) (n : Lane) (k : Nat) :
    SameRegs (published s d n k) (published t d n k) := by
  have write (e : Dir) : (t.withSw d n (toWord k)).bank e = (s.withSw d n (toWord k)).bank e := by
    by_cases he : e = d
    · subst he; simp only [State.withSw, setBank_bank, h.bank]
    · rw [withSw_bank_other t d n _ he, withSw_bank_other s d n _ he, h.bank]
  have inReset : laneInReset t d n = laneInReset s d n := by simp only [laneInReset, h.bank]
  refine ⟨by simpa using h.cfg, fun e => ?_⟩
  simp only [Machine.published, inReset]
  split
  · exact h.bank e
  · exact write e

/-- Whether a lane-agent step is taken, and what it makes of the registers, the registers tell (R160 to R172). -/
theorem laneStep (h : SameRegs s t) (l : LaneStep) : SameRegs (laneStep s l) (laneStep t l) := by
  obtain ⟨cfg, bank⟩ := h
  have tx : t.tx = s.tx := bank .tx
  have rx : t.rx = s.rx := bank .rx
  have active (d : Dir) (n : Lane) : laneActive t d n = laneActive s d n := by simp only [laneActive, cfg, bank]
  have same : SameRegs s t := ⟨cfg, bank⟩
  have of_tx {a b : State} (c : b.cfg = a.cfg) (x : b.tx = a.tx) (r : b.rx = a.rx) : SameRegs a b :=
    ⟨c, fun d => by cases d; exacts [x, r]⟩
  cases l with
  | rxByte n b =>
    have enabled : rxByteEnabled t n = rxByteEnabled s n := by
      simp only [rxByteEnabled, active, cfg, rx]
    simp only [Machine.laneStep, rxByteStep, enabled]
    split
    · exact of_tx cfg tx (by simp only [cfg, rx])
    · exact same
  | txByte n =>
    have enabled : txByteEnabled t n = txByteEnabled s n := by
      simp only [txByteEnabled, active, cfg, tx]
    simp only [Machine.laneStep, txByteStep, enabled]
    split
    · exact of_tx cfg (by simp only [cfg, tx]) rx
    · exact same
  | status d n =>
    simp only [Machine.laneStep, statusStep, active]
    split
    · cases d
      · exact of_tx cfg (by simp only [tx]) rx
      · exact of_tx cfg tx (by simp only [rx])
    · exact same
  | corrupt d n v =>
    simp only [Machine.laneStep, corruptStep, cfg, bank]
    split
    · cases d
      · exact of_tx cfg rfl rx
      · exact of_tx cfg tx rfl
    · exact same

theorem laneSteps (l : List LaneStep) :
    ∀ {s t : State}, SameRegs s t → SameRegs (laneSteps s l) (laneSteps t l) := by
  induction l with
  | nil => exact id
  | cons a l ih => exact fun h => ih (h.laneStep a)

/-- A boundary whose slot holds the steps `l`. -/
theorem boundary {l : List LaneStep} {rest : List (List LaneStep)} (h : s.sched = l :: rest) :
    SameRegs (Machine.laneSteps s l) (Machine.boundary s) := by
  have slot : SameRegs s { s with sched := rest } := ⟨rfl, fun d => by cases d <;> rfl⟩
  have agents : interleave s = Machine.laneSteps { s with sched := rest } l := by simp only [interleave, h]
  refine (slot.laneSteps l).trans ?_
  rw [Machine.boundary, agents]
  exact ⟨rfl, fun _ => advanceCur_bank ..⟩

end SameRegs

/-- Where the next `k` slots hold no step, they are used up and the registers stay. -/
def Waits (k : Nat) (s t : State) : Prop :=
  ∀ rest, s.sched = List.replicate k [] ++ rest → t.sched = rest ∧ SameRegs s t

theorem Waits.trans {j k : Nat} {s t u : State} (h : Waits j s t) (h' : Waits k t u) : Waits (j + k) s u := by
  intro rest hs
  rw [← List.replicate_append_replicate, List.append_assoc] at hs
  obtain ⟨sched, regs⟩ := h _ hs
  obtain ⟨sched', regs'⟩ := h' _ sched
  exact ⟨sched', regs.trans regs'⟩

theorem waits_boundary (s : State) : Waits 1 s (boundary s) := by
  intro rest hs
  have hs : s.sched = [] :: rest := hs
  exact ⟨by simp [hs], .boundary hs⟩

theorem waits_zero {s t : State} (sched : t.sched = s.sched) (regs : SameRegs s t) : Waits 0 s t := by
  intro rest hs
  exact ⟨sched.trans hs, regs⟩

theorem waits_setChan (s : State) (d : Dir) (n : Lane) (c : Chan) : Waits 1 s ((boundary s).setChan d n c) :=
  (waits_boundary s).trans (waits_zero (setChan_sched ..) (.setChan ..))

/-! ### The re-check -/

/-- The work flag that the re-check leaves: set where the pointer it reads differs (R251, R258). -/
theorem recheck_work {d : Dir} {n : Lane} {v : Word} {s t : State} (h : (recheck d n v).run s = .ok () t) :
    (t.chan d n).work = ((s.chan d n).work || decide (((boundary s).bank d).hw[n.val] ≠ v)) := by
  obtain ⟨t', run, did⟩ := recheck_run d n v s
  obtain rfl : t' = t := by rw [run] at h; cases h; rfl
  rw [control_chan did.control, setChan_chan_same]

/-! ### TXCOMP (R258) -/

section
variable {s : State} {n : Lane} {r : Word}

theorem txcompBody_idle (h : (s.chan .tx n).run = .idle) :
    (txcompBody n).run s = .ok (okValue (s.chan .tx n).tail) s := by
  simp [txcompBody, h]

/-- What TXCOMP leaves before its re-check: `tail` set, and `TX_WR[n]` rewritten where bytes remain. -/
def synchronised (s : State) (n : Lane) (r : Nat) : State :=
  let u := (boundary (boundary s)).setChan .tx n { s.chan .tx n with tail := r }
  if (s.chan .tx n).head = r then u else published (boundary u) .tx n (s.chan .tx n).head

theorem synchronised_work (s : State) (n : Lane) (r : Nat) :
    ((synchronised s n r).chan .tx n).work = (s.chan .tx n).work := by
  unfold synchronised
  split <;> simp

theorem rearm_run {u : State} (hhead : (u.chan .tx n).head < cap u.cfg .tx) : (rearm n).run u =
    .ok () (if (u.chan .tx n).head = (u.chan .tx n).tail then u
      else published (boundary u) .tx n (u.chan .tx n).head) := by
  by_cases he : (u.chan .tx n).head = (u.chan .tx n).tail
  · simp [rearm, he]
  · simp [rearm, he, st32_sw_run u hhead]

/-- TXCOMP's last access is its re-check, after the lane is synchronised. -/
theorem txcompBody_recheck {t : State} {x : Ret} (started : (s.chan .tx n).run ≠ .idle)
    (hhead : (s.chan .tx n).head < cap s.cfg .tx) (hr : ((boundary s).bank .tx).hw[n.val] = r)
    (ok : consumedOk s.cfg (s.chan .tx n) r.toNat = true) (h : (txcompBody n).run s = .ok x t) :
    (recheck .tx n r).run (synchronised s n r.toNat) = .ok () t := by
  have armed : (rearm n).run ((boundary (boundary s)).setChan .tx n { s.chan .tx n with tail := r.toNat }) =
      .ok () (synchronised s n r.toNat) := by
    rw [rearm_run (by simpa using hhead)]
    simp [synchronised]
  simp only [txcompBody, completeActive, completeTo, op_bind, op_pure, run_bind, lookChan_run, started, if_false,
    params_run, ld32_hw, hr, boundary_chan, ok, if_true, updateChan_run, armed] at h
  cases e : (recheck .tx n r).run (synchronised s n r.toNat) with
  | ok a u => rw [e] at h; cases h; rfl
  | error a u => rw [e] at h; cases h

/-- Where the lane agents first move just before the second read of the pointer, they do so in the completed state. -/
theorem boundary_synchronised {later : List LaneStep} {rest : List (List LaneStep)} {k : Nat}
    (hs : s.sched = List.replicate (if (s.chan .tx n).head = k then 2 else 3) [] ++ later :: rest) :
    SameRegs (laneSteps (completed s n k false) later) (boundary (synchronised s n k)) := by
  have tailed := (waits_boundary s).trans (waits_setChan (boundary s) .tx n { s.chan .tx n with tail := k })
  unfold synchronised completed
  split at hs
  · obtain ⟨sched, regs⟩ := tailed _ hs
    have start : SameRegs s (s.setChan .tx n { s.chan .tx n with tail := k, work := false }) := .setChan ..
    rw [if_pos ‹_›, if_pos ‹_›]
    refine SameRegs.trans (SameRegs.laneSteps later ?_) (.boundary sched)
    exact ⟨by rw [regs.cfg, start.cfg], fun d => by rw [regs.bank, start.bank]⟩
  · obtain ⟨sched, regs⟩ := (tailed.trans (waits_boundary _)) _ hs
    have written := regs.published .tx n (s.chan .tx n).head
    rw [if_neg ‹_›, if_neg ‹_›]
    refine SameRegs.trans (SameRegs.laneSteps later ?_) (.boundary (by rw [published_sched]; exact sched))
    exact ⟨by rw [written.cfg, setChan_cfg], fun d => by rw [written.bank, setChan_bank]⟩

theorem quietPart_completed (s : State) (n : Lane) (r : Nat) (w : Bool) :
    quietPart (completed s n r w) = completed (quietPart s) n r w := by
  simp [completed, apply_ite quietPart]

end

/-- Settles O45: what TXCOMP leaves is `txcomp_run`'s; its work flag is the re-check's. -/
theorem txcompSynchronises : Obligations.TxcompSynchronises := by
  intro s f n r ha hn
  refine ⟨fun idle => ?_, fun started head hw hr path => ?_⟩
  · refine exec_lane_answered (r := okValue (s.chan .tx n).tail) rfl ha hn ?_
    simpa using txcompBody_idle (s := beginCommand (.txcomp f) s) (n := n) (by simpa using idle)
  have start : quietPart (beginCommand (.txcomp f) s) = quietPart s := rfl
  generalize hb : beginCommand (.txcomp f) s = b at start
  have read : ((boundary b).bank .tx).hw[n.val] = r := by rw [← hb, boundary_beginCommand_bank]; exact hw
  have entry : b.chan .tx n = s.chan .tx n := quiet_chan start .tx n
  have cfg : b.cfg = s.cfg := quiet_cfg start
  have ok : consumedOk b.cfg (b.chan .tx n) r.toNat = true := by
    rw [cfg, entry, consumedOk]
    exact Bool.and_eq_true_iff.mpr ⟨decide_eq_true hr, decide_eq_true path⟩
  obtain ⟨w, t, run, did, keeps, quiet⟩ := txcomp_run b n r (by rwa [entry]) (by rwa [entry, cfg]) read
    (by rwa [cfg]) (by simpa only [pendingCount, cfg, entry] using path)
  have checked := txcompBody_recheck (by rwa [entry]) (by rwa [entry, cfg]) read ok run
  have flag : w = ((s.chan .tx n).work ||
      decide (((boundary (synchronised b n r.toNat)).bank .tx).hw[n.val] ≠ r)) := by
    have left : (t.chan .tx n).work = w := by rw [control_chan did.control]; simp [completed]
    rw [← left, recheck_work checked, synchronised_work, entry]
  have sched : b.sched = s.sched := quiet_sched start
  refine ⟨_, w, by rw [exec_lane rfl ha hn, hb, run, finished_ok], ?_, by rwa [entry] at keeps,
    by rwa [sched, entry] at quiet, fun later rest hs => ?_⟩
  · subst hb
    exact (did.congr (by rw [quietPart_completed, start, ← quietPart_completed])).ended _
  · rw [flag, (boundary_synchronised (by rw [entry, sched]; exact hs)).bank .tx]
    have same : SameRegs (completed s n r.toNat false) (completed b n r.toNat false) :=
      .of_quiet (by rw [quietPart_completed, start, ← quietPart_completed])
    rw [(same.laneSteps later).bank .tx]
    rfl

/-! ### Two completions (R259, R260) -/

/-- TXCOMP with no lane agent scheduled, as the next TXCOMP finds the state. -/
theorem txcomp_quiet {s : State} {f : LaneField} {n : Lane} {r : Word} (ha : s.attached = true)
    (hn : laneOf s.cfg f = some n) (quiet : s.sched = []) (started : (s.chan .tx n).run ≠ .idle)
    (head : (s.chan .tx n).head < cap s.cfg .tx) (hw : s.tx.hw[n.val] = r) (hr : r.toNat < cap s.cfg .tx)
    (path : ringSub (ringMask s.cfg .tx) r.toNat (s.chan .tx n).tail ≤ pendingCount s .tx n) :
    ∃ t, exec (.txcomp f) s = .next t ∧ t.attached = true ∧ t.cfg = s.cfg ∧ t.sched = [] ∧
      t.chan .tx n = { s.chan .tx n with tail := r.toNat } := by
  obtain ⟨t, w, run, ended, -, same, -⟩ := (txcompSynchronises s f n r ha hn).2 started head
    (by rw [interleave_quiet quiet]; exact hw) hr path
  have left := ended.control
  refine ⟨t, run, ?_, ?_, ?_, ?_⟩
  · rw [control_attached left, completed]; split <;> simp [published, apply_ite State.attached, ha]
  · rw [control_cfg left, completed]; split <;> simp
  · rw [ended.quiet quiet, completed]; split <;> simp [State.setHist, quiet, endCommand, State.log]
  · rw [control_chan left, completed, same quiet]; split <;> simp

/-- On the forward path to `h`, past `a` the distances to `b` and `h` shrink alike. -/
theorem ringSub_past {c : Params} {d : Dir} {a b h t : Nat} (ha : a < cap c d) (hb : b < cap c d) (hh : h < cap c d)
    (ht : t < cap c d) (hab : ringSub (ringMask c d) a t ≤ ringSub (ringMask c d) b t)
    (hbh : ringSub (ringMask c d) b t ≤ ringSub (ringMask c d) h t) :
    ringSub (ringMask c d) b a ≤ ringSub (ringMask c d) h a := by
  rw [ringSub_cases c d ha ht, ringSub_cases c d hb ht] at hab
  rw [ringSub_cases c d hb ht, ringSub_cases c d hh ht] at hbh
  rw [ringSub_cases c d hb ha, ringSub_cases c d hh ha]
  split_ifs at * <;> omega

/-- Settles O46. -/
theorem transmitRoundTrip : Obligations.TransmitRoundTrip := by
  intro s f n r1 r2 ha hn quiet started head tail h1 h2 first second
  have hw (r : Word) : (s.withHw .tx n r).tx.hw[n.val] = r := by simp [State.withHw, State.setBank, State.bank]
  have entry (r : Word) : (s.withHw .tx n r).chan .tx n = s.chan .tx n := withHw_chan ..
  have pending (r : Word) : pendingCount (s.withHw .tx n r) .tx n = pendingCount s .tx n := by
    simp [pendingCount]
  obtain ⟨t1, run1, a1, c1, q1, e1⟩ := txcomp_quiet (s := s.withHw .tx n r1) (f := f) (n := n) (by simpa using ha)
    (by simpa using hn) (by simpa using quiet) (by rwa [entry]) (by simpa [entry] using head) (hw r1)
    (by simpa using h1) (by rw [pending, entry, withHw_cfg]; exact first.trans second)
  obtain ⟨t, run, -, c, -, e⟩ := txcomp_quiet (s := s.withHw .tx n r2) (f := f) (n := n) (by simpa using ha)
    (by simpa using hn) (by simpa using quiet) (by rwa [entry]) (by simpa [entry] using head) (hw r2)
    (by simpa using h2) (by rw [pending, entry, withHw_cfg]; exact second)
  rw [withHw_cfg] at c c1
  rw [entry] at e e1
  have path := ringSub_past h1 h2 head tail first second
  obtain ⟨t2, run2, -, c2, -, e2⟩ := txcomp_quiet (s := t1.withHw .tx n r2) (r := r2) (f := f) (n := n)
    (by simpa using a1) (by simpa [c1] using hn) (by simpa using q1) (by simpa [e1] using started)
    (by simpa [e1, c1] using head)
    (by simp [State.withHw, State.setBank, State.bank]) (by simpa [c1] using h2)
    (by simpa [pendingCount, e1, c1] using path)
  rw [withHw_cfg, c1] at c2
  rw [withHw_chan, e1] at e2
  refine ⟨t1, t2, t, run1, run2, run, by rw [e2], by rw [e], ?_, fun hh => ?_⟩
  · simp only [pendingCount, e2, e, c2, c]
  · simp only [pendingCount, e2, c2, hh, ringSub_self]

end Sys2Proof.Machine
end

section
/-! The receive ring while the lane agents fill it (41_engine R162, R174; 20_memory R63): the unread bytes stay as they
are, in order, and a received byte joins them at the end. -/

namespace Sys2Proof.Machine

/-! ### Received and delivered bytes of a history (10_state R45) -/

section
variable {n : Lane}

theorem receivedBytes_append (a b : List Event) :
    receivedBytes n (a ++ b) = receivedBytes n a ++ receivedBytes n b := by
  induction a with
  | nil => rfl
  | cons e a ih =>
    cases e with
    | lineRx m x => by_cases h : m = n <;> simp [receivedBytes, h, ih]
    | _ => exact ih

theorem deliveredBytes_append (a b : List Event) :
    deliveredBytes n (a ++ b) = deliveredBytes n a ++ deliveredBytes n b := by
  induction a with
  | nil => rfl
  | cons e a ih =>
    cases e with
    | deliver o m x => by_cases h : m = n <;> simp [deliveredBytes, h, ih]
    | _ => exact ih

/-- Only the block's own events deliver. -/
theorem deliveredBytes_own (es : List Event) : deliveredBytes n (es.filter Event.isOwn) = deliveredBytes n es := by
  induction es with
  | nil => rfl
  | cons e es ih =>
    cases e with
    | deliver o m x =>
      show deliveredBytes n (.deliver o m x :: es.filter Event.isOwn) = _
      by_cases h : m = n <;> simp [deliveredBytes, h, ih]
    | lineTx | lineRx => exact ih
    | _ => exact ih

theorem deliveredBytes_drainEvents (owner : Owner) (bytes : List Byte) :
    deliveredBytes n (drainEvents owner n bytes) = bytes := by
  unfold drainEvents
  split
  · exact ‹bytes = []›.symm
  · simp [deliveredBytes]

end

/-! ### Disjoint rings (R63) -/

theorem disjoint_symm {a b : Region} (h : disjoint a b = true) : disjoint b a = true := by
  simp only [disjoint, decide_eq_true_eq] at h ⊢
  exact h.symm

theorem pairwiseDisjoint_iff {l : List Region} :
    pairwiseDisjoint l = true ↔ l.Pairwise fun a b => disjoint a b = true := by
  induction l with
  | nil => simp [pairwiseDisjoint]
  | cons r l ih => simp [pairwiseDisjoint, ih]

/-- The receive rings of two lanes share no address (R192). -/
theorem receiveRings_disjoint {c : Params} (h : receiveRingsOk c = true) {m n : Lane} (hm : c.hasLane m = true)
    (hn : c.hasLane n = true) (hne : m ≠ n) :
    disjoint (ringRegion c .rx c.rxBufPhys[m.val]) (ringRegion c .rx c.rxBufPhys[n.val]) = true := by
  obtain ⟨-, apart⟩ := Bool.and_eq_true_iff.mp h
  have rings := List.pairwise_map.mp (List.pairwise_cons.mp (pairwiseDisjoint_iff.mp apart)).2
  have : Std.Symm fun a b : Lane => disjoint (ringRegion c .rx c.rxBufPhys[a.val])
      (ringRegion c .rx c.rxBufPhys[b.val]) = true := ⟨fun _ _ => disjoint_symm⟩
  exact rings.forall (mem_lanes.mpr hm) (mem_lanes.mpr hn) hne

/-- Addresses of disjoint rings differ. -/
theorem address_ne {c : Params} {d e : Dir} {a b : Word} (h : disjoint (ringRegion c d a) (ringRegion c e b) = true)
    {i j : Nat} (hi : i < cap c d) (hj : j < cap c e) : a.toNat + i ≠ b.toNat + j := by
  have apart := of_decide_eq_true h
  simp only [ringRegion] at apart
  omega

/-! ### Positions in a ring (R11) -/

section
variable {c : Params} {d : Dir} {h i k p : Nat}

theorem ringAdd_assoc (c : Params) (d : Dir) (a b e : Nat) :
    ringAdd (ringMask c d) (ringAdd (ringMask c d) a b) e = ringAdd (ringMask c d) a (b + e) := by
  simp only [ringAdd_eq_mod, Nat.mod_add_mod, Nat.add_assoc]

/-- Advancing by no more than the distance shortens it by as much. -/
theorem ringSub_ringAdd (hh : h < cap c d) (hi : i < cap c d) (hk : k ≤ ringSub (ringMask c d) h i) :
    ringSub (ringMask c d) h (ringAdd (ringMask c d) i k) = ringSub (ringMask c d) h i - k := by
  have hkc : k < cap c d := Nat.lt_of_le_of_lt hk (ringSub_lt ..)
  rw [ringSub_cases c d hh hi] at hk ⊢
  rw [ringSub_cases c d hh (ringAdd_lt ..), ringAdd_cases c d hi hkc]
  split_ifs at * <;> omega

/-- Positions short of the distance are not yet there. -/
theorem ringAdd_ne (hh : h < cap c d) (hi : i < cap c d) (hp : p < ringSub (ringMask c d) h i) :
    ringAdd (ringMask c d) i p ≠ h := by
  intro e
  have := ringSub_ringAdd hh hi hp.le
  rw [e, ringSub_self] at this
  omega

/-- One step further, unless that runs into the index `k` behind. -/
theorem ringSub_succ (hh : h < cap c d) (hi : i < cap c d) (hk : k < cap c d)
    (ahead : ringSub (ringMask c d) i k ≤ ringSub (ringMask c d) h k) (free : (h + 1) % cap c d ≠ k) :
    ringSub (ringMask c d) ((h + 1) % cap c d) i = ringSub (ringMask c d) h i + 1 := by
  have next := ringAdd_eq_mod c d h 1
  rw [ringAdd_cases c d hh (two_le_cap c d)] at next
  rw [← next] at free ⊢
  rw [ringSub_cases c d hi hk, ringSub_cases c d hh hk] at ahead
  rw [ringSub_cases c d hh hi, ringSub_cases c d _ hi]
  · split_ifs at * <;> omega
  · split <;> omega

end

/-! ### The unread part of a receive ring -/

/-- The bytes of a receive ring from index `i` up to the hardware pointer, in ring order. -/
def ringFrom (s : State) (n : Lane) (i : Nat) : List Byte :=
  ringBytes s .rx n i (ringSub (ringMask s.cfg .rx) s.rx.hw[n.val].toNat i)

theorem unreadBytes_eq (s : State) (n : Lane) : unreadBytes s n = ringFrom s n (s.chan .rx n).tail := rfl

/-- Where the control unit reads the byte `p` past index `i` of a receive ring (R63). -/
def ringCell (s : State) (n : Lane) (i p : Nat) : Nat := ringAddress s .rx n (ringAdd (ringMask s.cfg .rx) i p)

theorem ringCell_eq {s : State} {n : Lane} {i p : Nat} :
    ringCell s n i p = s.cfg.rxBufPhys[n.val].toNat + ringAdd (ringMask s.cfg .rx) i p := rfl

theorem ringFrom_length (s : State) (n : Lane) (i : Nat) :
    (ringFrom s n i).length = ringSub (ringMask s.cfg .rx) s.rx.hw[n.val].toNat i := by
  simp [ringFrom, ringBytes]

theorem ringFrom_get {s : State} {n : Lane} {i p : Nat}
    (hp : p < ringSub (ringMask s.cfg .rx) s.rx.hw[n.val].toNat i) :
    (ringFrom s n i)[p]? = some (memRead s.mem (ringCell s n i p)) := by
  simp [ringFrom, ringBytes, hp, ringCell]

theorem take_ringFrom {s : State} {n : Lane} {i k : Nat}
    (hk : k ≤ ringSub (ringMask s.cfg .rx) s.rx.hw[n.val].toNat i) :
    (ringFrom s n i).take k = ringBytes s .rx n i k := by
  simp only [ringFrom, ringBytes, ← List.map_take, List.take_range, Nat.min_eq_left hk]

theorem drop_ringFrom {s : State} {n : Lane} {i k : Nat} (hh : s.rx.hw[n.val].toNat < cap s.cfg .rx)
    (hi : i < cap s.cfg .rx) (hk : k ≤ ringSub (ringMask s.cfg .rx) s.rx.hw[n.val].toNat i) :
    (ringFrom s n i).drop k = ringFrom s n (ringAdd (ringMask s.cfg .rx) i k) := by
  have length := ringSub_ringAdd hh hi hk
  refine List.ext_getElem? fun p => ?_
  rw [List.getElem?_drop]
  by_cases hp : p < ringSub (ringMask s.cfg .rx) s.rx.hw[n.val].toNat i - k
  · rw [ringFrom_get (by omega), ringFrom_get (by omega), ringCell, ringCell, ringAdd_assoc]
  · rw [List.getElem?_eq_none (by rw [ringFrom_length]; omega), List.getElem?_eq_none (by rw [ringFrom_length]; omega)]

/-! ### One lane's receive ring while agents move -/

/-- A receive lane's ring as commands build it, on hardware that does not corrupt pointers: no other lane's agent stores
into it, and both pointers are in range. -/
structure RxRing (n : Lane) (s : State) : Prop where
  lane : s.cfg.hasLane n = true
  hardware : s.cfg.hwMayCorrupt = false
  mem : Memory.wf s.mem
  ringsOk : receiveRingsOk s.cfg = true
  base : ∀ m : Lane, s.cfg.hasLane m = true → s.rx.base[m.val] = s.cfg.rxBufPhys[m.val]
  hw : s.rx.hw[n.val].toNat < cap s.cfg .rx
  sw : s.rx.sw[n.val].toNat < cap s.cfg .rx

/-- Index `i` lies on the way from the software pointer to the hardware pointer. -/
def Ahead (s : State) (n : Lane) (i : Nat) : Prop := ringSub (ringMask s.cfg .rx) i s.rx.sw[n.val].toNat ≤
  ringSub (ringMask s.cfg .rx) s.rx.hw[n.val].toNat s.rx.sw[n.val].toNat

/-- From `s` to `t` the bytes `given` were delivered, and the unread bytes from any index on grew, at their end, by
those received. -/
structure Flow (n : Lane) (given : List Byte) (s t : State) : Prop where
  cfg : t.cfg = s.cfg
  sw : t.rx.sw = s.rx.sw
  ahead : ∀ i < cap s.cfg .rx, Ahead s n i → Ahead t n i
  bytes : ∃ es, t.hist = s.hist ++ es ∧ deliveredBytes n es = given ∧
    ∀ i < cap s.cfg .rx, Ahead s n i → ringFrom t n i = ringFrom s n i ++ receivedBytes n es

section
variable {n : Lane} {s t u : State} {a b : List Byte}

theorem Flow.trans (h : Flow n a s t) (k : Flow n b t u) : Flow n (a ++ b) s u where
  cfg := k.cfg.trans h.cfg
  sw := k.sw.trans h.sw
  ahead i hi hs := k.ahead i (by rwa [h.cfg]) (h.ahead i hi hs)
  bytes := by
    obtain ⟨es, hist, given, left⟩ := h.bytes
    obtain ⟨es', hist', given', left'⟩ := k.bytes
    refine ⟨es ++ es', by rw [hist', hist, List.append_assoc], ?_, fun i hi hs => ?_⟩
    · rw [deliveredBytes_append, given, given']
    · rw [left' i (by rwa [h.cfg]) (h.ahead i hi hs), left i hi hs, receivedBytes_append, List.append_assoc]

/-- A change of nothing that the ring is made of, by which at most an event of the block's own joins the history. -/
theorem Flow.of_same {es : List Event} (cfg : t.cfg = s.cfg) (hw : t.rx.hw = s.rx.hw) (sw : t.rx.sw = s.rx.sw)
    (mem : t.mem = s.mem) (hist : t.hist = s.hist ++ es) (received : receivedBytes n es = []) :
    Flow n (deliveredBytes n es) s t where
  cfg := cfg
  sw := sw
  ahead i _ hs := by simpa only [Ahead, cfg, hw, sw] using hs
  bytes := by
    refine ⟨es, hist, rfl, fun i _ _ => ?_⟩
    simp only [ringFrom, ringBytes, ringAddress, State.buf, cfg, hw, mem, received, List.append_nil]

/-- A byte that was unread stays where it is. -/
theorem Flow.read (h : Flow n a s t) {i p : Nat} (hi : i < cap s.cfg .rx) (ahead : Ahead s n i)
    (hp : p < ringSub (ringMask s.cfg .rx) s.rx.hw[n.val].toNat i) :
    memRead t.mem (ringCell s n i p) = memRead s.mem (ringCell s n i p) ∧
      p < ringSub (ringMask t.cfg .rx) t.rx.hw[n.val].toNat i := by
  obtain ⟨es, -, -, left⟩ := h.bytes
  have grown := left i hi ahead
  have further : p < ringSub (ringMask t.cfg .rx) t.rx.hw[n.val].toNat i := by
    rw [← ringFrom_length, grown, List.length_append, ringFrom_length]
    omega
  have cell : ringCell t n i p = ringCell s n i p := by rw [ringCell_eq, ringCell_eq, h.cfg]
  have same := ringFrom_get further
  rw [grown, List.getElem?_append_left (by rwa [ringFrom_length]), ringFrom_get hp, cell] at same
  exact ⟨(Option.some.inj same).symm, further⟩

/-- The lane agents keep the ring so. -/
theorem RxRing.lanes (h : RxRing n s) (frame : LaneFrame s t) : RxRing n t where
  lane := by rw [frame.cfg]; exact h.lane
  hardware := by rw [frame.cfg]; exact h.hardware
  mem := frame.mem h.mem
  ringsOk := by rw [frame.cfg]; exact h.ringsOk
  base m hm := by
    rw [frame.cfg] at hm ⊢
    have base : t.rx.base = s.rx.base := frame.base .rx
    rw [base]
    exact h.base m hm
  hw := by rw [frame.cfg]; exact frame.hwInRange h.hardware .rx n h.hw
  sw := by
    have sw : t.rx.sw = s.rx.sw := frame.sw .rx
    rw [frame.cfg, sw]
    exact h.sw

/-- Only a lane of the model moves. -/
theorem rxByteEnabled_hasLane {m : Lane} (en : rxByteEnabled s m = true) : s.cfg.hasLane m = true := by
  obtain ⟨active, -⟩ := rxByteEnabled_iff.mp en
  simp only [laneActive, Bool.and_eq_true] at active
  exact active.1.1

/-- A receive agent stores its byte at the hardware pointer of its own ring, and nowhere else (R162). -/
theorem memRead_rxByteStep {m : Lane} (en : rxByteEnabled s m = true) (wf : Memory.wf s.mem)
    (base : s.rx.base[m.val] = s.cfg.rxBufPhys[m.val]) (x : Byte) (p : Nat) : memRead (rxByteStep s m x).mem p =
      if p = s.cfg.rxBufPhys[m.val].toNat + s.rx.hw[m.val].toNat then x else memRead s.mem p := by
  rw [rxByteStep, if_pos en, ← base]
  exact memRead_memWrite wf _ x p

theorem rxByteStep_hist {m : Lane} (en : rxByteEnabled s m = true) (x : Byte) :
    (rxByteStep s m x).hist = s.hist ++ [.lineRx m x] := by rw [rxByteStep, if_pos en]

theorem rxByteStep_hw {m : Lane} (en : rxByteEnabled s m = true) (x : Byte) : (rxByteStep s m x).rx.hw =
    s.rx.hw.set m.val (toWord (ringAdd (ringMask s.cfg .rx) s.rx.hw[m.val].toNat 1)) := by
  rw [rxByteStep, if_pos en]
  rfl

theorem ringCell_congr (cfg : t.cfg = s.cfg) (i p : Nat) : ringCell t n i p = ringCell s n i p := by
  rw [ringCell_eq, ringCell_eq, cfg]

/-- Another lane's receive agent stores elsewhere. -/
theorem rxByteStep_flow_other (h : RxRing n s) {m : Lane} (hmn : m ≠ n) (x : Byte) (en : rxByteEnabled s m = true) :
    Flow n [] s (rxByteStep s m x) := by
  have lane := rxByteEnabled_hasLane en
  obtain ⟨-, inRange, -⟩ := rxByteEnabled_iff.mp en
  have cfg : (rxByteStep s m x).cfg = s.cfg := (rxByteStep_frame s m x).cfg
  have sw : (rxByteStep s m x).rx.sw = s.rx.sw := (rxByteStep_frame s m x).sw .rx
  have hw : (rxByteStep s m x).rx.hw[n.val] = s.rx.hw[n.val] := by
    rw [rxByteStep_hw en, lane_set_other _ _ (Ne.symm hmn)]
  refine ⟨cfg, sw, fun i _ ahead => by simpa only [Ahead, cfg, sw, hw] using ahead, [.lineRx m x],
    rxByteStep_hist en x, rfl, fun i _ _ => ?_⟩
  have none : receivedBytes n [.lineRx m x] = [] := by simp [receivedBytes, hmn]
  rw [none, List.append_nil, ringFrom, ringFrom, cfg, hw]
  refine List.map_congr_left fun p _ => ?_
  show memRead _ (ringCell (rxByteStep s m x) n i p) = memRead s.mem (ringCell s n i p)
  rw [ringCell_congr cfg, memRead_rxByteStep en h.mem (h.base m lane), if_neg]
  exact address_ne (receiveRings_disjoint h.ringsOk h.lane lane (Ne.symm hmn)) (ringAdd_lt ..) inRange

/-- The lane's own receive agent stores at the hardware pointer, right behind the unread bytes. -/
theorem rxByteStep_flow_own (h : RxRing n s) (x : Byte) (en : rxByteEnabled s n = true) :
    Flow n [] s (rxByteStep s n x) := by
  obtain ⟨-, -, notFull, -⟩ := rxByteEnabled_iff.mp en
  have cfg : (rxByteStep s n x).cfg = s.cfg := (rxByteStep_frame s n x).cfg
  have sw : (rxByteStep s n x).rx.sw = s.rx.sw := (rxByteStep_frame s n x).sw .rx
  have next : (rxByteStep s n x).rx.hw[n.val].toNat = (s.rx.hw[n.val].toNat + 1) % cap s.cfg .rx := by
    rw [rxByteStep_hw en, lane_set_get, if_pos rfl, toWord_toNat_of_lt_cap (ringAdd_lt s.cfg .rx _ _), ringAdd_eq_mod]
  have longer {i : Nat} (hi : i < cap s.cfg .rx) (ahead : Ahead s n i) := ringSub_succ h.hw hi h.sw ahead notFull
  have read (i p : Nat) : memRead (rxByteStep s n x).mem (ringCell (rxByteStep s n x) n i p) =
      if ringAdd (ringMask s.cfg .rx) i p = s.rx.hw[n.val].toNat then x else memRead s.mem (ringCell s n i p) := by
    rw [ringCell_congr cfg, memRead_rxByteStep en h.mem (h.base n h.lane), ringCell_eq]
    simp only [Nat.add_left_cancel_iff]
  refine ⟨cfg, sw, fun i hi ahead => ?_, [.lineRx n x], rxByteStep_hist en x, rfl, fun i hi ahead => ?_⟩
  · simp only [Ahead, cfg, sw, next]
    rw [longer h.sw (by rw [Ahead, ringSub_self]; omega)]
    exact Nat.le_succ_of_le ahead
  · have length : ringSub (ringMask (rxByteStep s n x).cfg .rx) (rxByteStep s n x).rx.hw[n.val].toNat i =
        (ringFrom s n i).length + 1 := by
      rw [ringFrom_length, cfg, next, longer hi ahead]
    refine List.ext_getElem? fun p => ?_
    obtain hp | rfl | hp := Nat.lt_trichotomy p (ringFrom s n i).length
    · rw [List.getElem?_append_left hp, ringFrom_get (by omega), read]
      rw [ringFrom_length] at hp
      rw [ringFrom_get hp, if_neg (ringAdd_ne h.hw hi hp)]
    · rw [List.getElem?_append_right (Nat.le_refl _), ringFrom_get (by omega), read, ringFrom_length,
        if_pos (ringAdd_ringSub s.cfg .rx h.hw hi)]
      simp [receivedBytes]
    · rw [List.getElem?_eq_none (by rw [ringFrom_length]; omega),
        List.getElem?_eq_none (by simp [receivedBytes]; omega)]

theorem laneStep_flow (h : RxRing n s) (l : LaneStep) : Flow n [] s (laneStep s l) := by
  cases l with
  | rxByte m x =>
    by_cases en : rxByteEnabled s m = true
    · by_cases hmn : m = n
      · subst hmn
        exact rxByteStep_flow_own h x en
      · exact rxByteStep_flow_other h hmn x en
    · rw [laneStep, rxByteStep_disabled en]
      exact .of_same (es := []) rfl rfl rfl rfl (by simp) rfl
  | txByte m =>
    simp only [laneStep, txByteStep]
    split
    · exact .of_same (es := [.lineTx m (memRead s.mem (agentAddress s.tx m))]) rfl rfl rfl rfl rfl rfl
    · exact .of_same (es := []) rfl rfl rfl rfl (by simp) rfl
  | status d m =>
    simp only [laneStep, statusStep]
    split
    · cases d <;> exact .of_same (es := []) rfl rfl rfl rfl (by simp) rfl
    · exact .of_same (es := []) rfl rfl rfl rfl (by simp) rfl
  | corrupt d m v =>
    simp only [laneStep, corruptStep, h.hardware, Bool.false_and, Bool.false_eq_true, if_false]
    exact .of_same (es := []) rfl rfl rfl rfl (by simp) rfl

/-- `Flow`, with the ring kept as it should be. -/
structure Flows (n : Lane) (given : List Byte) (s t : State) : Prop where
  flow : Flow n given s t
  ring : RxRing n t

theorem Flows.trans (h : Flows n a s t) (k : Flows n b t u) : Flows n (a ++ b) s u := ⟨h.flow.trans k.flow, k.ring⟩

theorem laneSteps_flows (l : List LaneStep) : ∀ {s : State}, RxRing n s → Flows n [] s (laneSteps s l) := by
  induction l with
  | nil => exact fun h => ⟨.of_same (es := []) rfl rfl rfl rfl (by simp [laneSteps]) rfl, h⟩
  | cons a l ih =>
    intro s h
    have first : Flows n [] s (laneStep s a) := ⟨laneStep_flow h a, h.lanes (laneStep_frame s a)⟩
    exact first.trans (ih first.ring)

/-- What keeps the ring's registers, parameters and memory keeps the ring. -/
theorem RxRing.flows (h : RxRing n s) {es : List Event} (cfg : t.cfg = s.cfg) (rx : t.rx = s.rx) (mem : t.mem = s.mem)
    (hist : t.hist = s.hist ++ es) (received : receivedBytes n es = []) : Flows n (deliveredBytes n es) s t where
  flow := .of_same cfg (by rw [rx]) (by rw [rx]) mem hist received
  ring := by
    obtain ⟨lane, hardware, wf, ringsOk, base, hw, sw⟩ := h
    exact ⟨by rwa [cfg], by rwa [cfg], by rwa [mem], by rwa [cfg], by rwa [cfg, rx], by rwa [cfg, rx], by rwa [cfg, rx]⟩

/-- The lane agents of a boundary. -/
theorem RxRing.boundary (h : RxRing n s) : Flows n [] s (boundary s) := by
  have agents : Flows n [] s (interleave s) := by
    unfold interleave
    split
    · exact h.flows (es := []) rfl rfl rfl (by simp) rfl
    · rename_i l rest _
      have slot : Flows n [] s { s with sched := rest } := h.flows (es := []) rfl rfl rfl (by simp) rfl
      exact slot.trans (laneSteps_flows l slot.ring)
  exact agents.trans (agents.ring.flows (es := []) rfl rfl rfl (by simp [Machine.boundary, advanceCur]) rfl)

end

end Sys2Proof.Machine
end

section
/-! RXDRAIN with bytes to read (43_ring_protocol R245 to R254): the accepted bytes are the first of the unread ones, the
others stay, and the re-check comes last. -/

namespace Sys2Proof.Machine

/-! ### RXDRAIN in two halves: up to the publication of `tail`, and the re-check -/

section
variable {s a b t : State} {n : Lane} {owner : Owner} {cb : Callback} {h : Word} {avail acc k : Nat} {bs : List Byte}
  {x : Ret}

/-- What handing `bytes` to the consumer stream leaves: nothing new if there are none. -/
def offered (s : State) (owner : Owner) (n : Lane) (bytes : List Byte) : State :=
  if bytes = [] then s
  else (boundary ((boundary s).log (.deliver owner n bytes))).log (.bytesAvailable owner n)

theorem offered_run (slot : (s.chan .rx n).slot = .owned owner cb) (bytes : List Byte) :
    (opWhen (decide (0 < bytes.length)) (deliver n bytes)).run s = .ok () (offered s owner n bytes) := by
  unfold offered
  split
  · rename_i none
    simp [none]
  · rename_i some
    rw [decide_eq_true (List.length_pos_iff.mpr some), opWhen_true]
    exact run_seq (emitOwned_run slot) (emitOwned_run (by simpa using slot))

@[simp] theorem offered_chan (s : State) (owner : Owner) (m : Lane) (bytes : List Byte) (d : Dir) (n : Lane) :
    (offered s owner m bytes).chan d n = s.chan d n := by
  unfold offered; split <;> simp

@[simp] theorem offered_cfg (s : State) (owner : Owner) (n : Lane) (bytes : List Byte) :
    (offered s owner n bytes).cfg = s.cfg := by
  unfold offered; split <;> simp

theorem offered_laneInReset (s : State) (owner : Owner) (m : Lane) (bytes : List Byte) (d : Dir) (n : Lane) :
    laneInReset (offered s owner m bytes) d n = laneInReset s d n := by
  unfold offered; split <;> simp [laneInReset]

/-- From the ring bytes read in `s` on: the bytes `taken` handed over and `tail` moved to `k`, not yet published. -/
def handedOver (s : State) (owner : Owner) (n : Lane) (taken : List Byte) (k : Nat) : State :=
  boundary ((boundary (offered (dropAccepted (boundary s)) owner n taken)).setChan .rx n
    { s.chan .rx n with tail := k })

@[simp] theorem handedOver_chan (s : State) (owner : Owner) (n : Lane) (taken : List Byte) (k : Nat) :
    (handedOver s owner n taken k).chan .rx n = { s.chan .rx n with tail := k } := by simp [handedOver]

@[simp] theorem handedOver_cfg (s : State) (owner : Owner) (n : Lane) (taken : List Byte) (k : Nat) :
    (handedOver s owner n taken k).cfg = s.cfg := by simp [handedOver]

theorem handedOver_laneInReset (s : State) (owner : Owner) (n : Lane) (taken : List Byte) (k : Nat) :
    laneInReset (handedOver s owner n taken k) .rx n = laneInReset s .rx n := by
  simp [handedOver, offered_laneInReset]

/-- RXDRAIN of a started lane reads the pointer, sets `head`, and drains. -/
theorem rxdrainBody_eq (started : (s.chan .rx n).run ≠ .idle) (hw : ((boundary s).bank .rx).hw[n.val] = h)
    (hlt : h.toNat < cap s.cfg .rx) (some : ringSub (ringMask s.cfg .rx) h.toNat (s.chan .rx n).tail ≠ 0) :
    (rxdrainBody n).run s = (drainBytes n (ringMask s.cfg .rx) (s.chan .rx n).tail
      (ringSub (ringMask s.cfg .rx) h.toNat (s.chan .rx n).tail) h).run
        ((boundary (boundary s)).setChan .rx n { s.chan .rx n with head := h.toNat }) := by
  simp [rxdrainBody, drainActive, started, hw, hlt, drainFrom, some]

/-- The drain in its two halves; no byte read changes the draw. -/
theorem drainBytes_halves (slot : (a.chan .rx n).slot = .owned owner cb)
    (hb : (a.buf .rx n).toNat + cap a.cfg .rx ≤ 2 ^ 32)
    (drawn : nextAccepted a avail = acc) (moved : ringAdd (ringMask a.cfg .rx) (a.chan .rx n).tail acc = k)
    (e : (drainBytes n (ringMask a.cfg .rx) (a.chan .rx n).tail avail h).run a = .ok x t) :
    ∃ bs b, (readRing .rx n (ringMask a.cfg .rx) (a.chan .rx n).tail 0 avail).run a = .ok bs b ∧
      bs.length = avail ∧ controlPart b = controlPart a ∧
      (recheck .rx n h).run (published (handedOver b owner n (bs.take acc) k) .rx n k) = .ok () t := by
  obtain ⟨bs, b, read, length, control, draws, -⟩ := readRing_run .rx n (a.chan .rx n).tail avail 0 a hb
  refine ⟨bs, b, read, length, control, ?_⟩
  have next : k < cap a.cfg .rx := moved ▸ ringAdd_lt ..
  have entry : b.chan .rx n = a.chan .rx n := control_chan control .rx n
  have cfg : b.cfg = a.cfg := control_cfg control
  have drawn' : nextAccepted b avail = acc := (nextAccepted_congr draws avail).trans drawn
  have taken : (bs.take acc).length = acc := by
    rw [List.length_take, length, ← drawn, Nat.min_eq_left (nextAccepted_le a avail)]
  have offer := offered_run (s := dropAccepted (boundary b)) (n := n) (owner := owner) (cb := cb)
    (by simpa [entry] using slot) (bs.take acc)
  have publish := st32_sw_run (d := .rx) (n := n) (k := k)
    ((boundary (offered (dropAccepted (boundary b)) owner n (bs.take acc))).setChan .rx n
      { b.chan .rx n with tail := k }) (by simpa [cfg] using next)
  rw [taken] at offer
  have last : (drainBytes n (ringMask a.cfg .rx) (a.chan .rx n).tail avail h).run a =
      ((recheck .rx n h).bind fun _ => .done (okValue acc)).run
        (published (handedOver b owner n (bs.take acc) k) .rx n k) := by
    simp only [drainBytes, op_bind, op_pure, run_bind, read, drawAccepted_run, drawn', moved, offer, updateChan_run,
      offered_chan, dropAccepted_chan, boundary_chan]
    rw [publish]
    rfl
  rw [last] at e
  obtain ⟨_, u, check, done⟩ := run_bind_ok.mp e
  cases done
  exact check

/-! ### The bytes -/

/-- A ring byte read is the one that stands there once one slot of lane agents has moved. -/
theorem readRingByte_ok {d : Dir} {i : Nat} {c : Byte} (e : (readRingByte d n i).run s = .ok c t) :
    c = memRead (boundary s).mem (ringAddress s d n i) ∧ t = boundary s := by
  simp only [readRingByte, Op.run] at e
  split at e
  · rename_i ok
    split at ok <;> cases ok
    cases e
    exact ⟨by simp [ringAddress], rfl⟩
  · cases e

/-- The ring bytes read one after another are those that stood in the ring at the start, though agents move between. -/
theorem readRing_flows (k : Nat) : ∀ (j : Nat) (s t : State) (bs : List Byte) (i : Nat), RxRing n s →
    i < cap s.cfg .rx → Ahead s n i → j + k ≤ ringSub (ringMask s.cfg .rx) s.rx.hw[n.val].toNat i →
    (readRing .rx n (ringMask s.cfg .rx) i j k).run s = .ok bs t →
    Flows n [] s t ∧ bs = ringBytesFrom s .rx n i j k := by
  induction k with
  | zero =>
    intro j s t bs i ring _ _ _ e
    cases e
    exact ⟨ring.flows (es := []) rfl rfl rfl (by simp) rfl, rfl⟩
  | succ k ih =>
    intro j s t bs i ring hi ahead hjk e
    obtain ⟨c, u, first, rest⟩ := run_bind_ok.mp e
    obtain ⟨cs, v, others, done⟩ := run_bind_ok.mp rest
    cases done
    have moved := ring.boundary
    have read {p : Nat} (hp : p < j + (k + 1)) := moved.flow.read hi ahead (p := p) (by omega)
    obtain ⟨rfl, rfl⟩ : c = memRead s.mem (ringCell s n i j) ∧ u = boundary s := by
      rw [← (read (by omega)).1]
      exact readRingByte_ok first
    have further := (read (p := j + k) (by omega)).2
    rw [← boundary_cfg s] at others hi
    obtain ⟨flows, rfl⟩ := ih (j + 1) (boundary s) _ cs i moved.ring hi
      (moved.flow.ahead i (by simpa using hi) ahead) (by omega) others
    refine ⟨moved.trans flows, ?_⟩
    rw [ringBytesFrom_succ]
    refine congrArg (List.cons _) (List.map_congr_left fun p hp => ?_)
    have hp := List.mem_range.mp hp
    have stays := (read (p := j + 1 + p) (by omega)).1
    simpa only [ringCell, ringAddress, boundary_buf, boundary_cfg] using stays

theorem RxRing.offered (ring : RxRing n s) (owner : Owner) (bytes : List Byte) :
    Flows n bytes s (offered s owner n bytes) := by
  unfold Machine.offered
  split
  · rename_i none
    subst none
    exact ring.flows (es := []) rfl rfl rfl (by simp) rfl
  · have moved := ring.boundary
    have given : Flows n bytes (Machine.boundary s) ((Machine.boundary s).log (.deliver owner n bytes)) := by
      simpa [deliveredBytes] using moved.ring.flows (es := [.deliver owner n bytes])
        (t := (Machine.boundary s).log (.deliver owner n bytes)) rfl rfl rfl rfl rfl
    have moved' := given.ring.boundary
    have told : Flows n [] (Machine.boundary ((Machine.boundary s).log (.deliver owner n bytes)))
        ((Machine.boundary ((Machine.boundary s).log (.deliver owner n bytes))).log
        (.bytesAvailable owner n)) := moved'.ring.flows (es := [.bytesAvailable owner n]) rfl rfl rfl rfl rfl
    simpa using ((moved.trans given).trans moved').trans told

theorem RxRing.handedOver (ring : RxRing n s) (owner : Owner) (taken : List Byte) (k : Nat) :
    Flows n taken s (handedOver s owner n taken k) := by
  have moved := ring.boundary
  have drawn : Flows n [] (Machine.boundary s) (dropAccepted (Machine.boundary s)) :=
    moved.ring.flows (es := []) rfl rfl rfl (by simp) rfl
  have given := drawn.ring.offered owner taken
  have moved' := given.ring.boundary
  have tailed := moved'.ring.flows (es := []) (t := (Machine.boundary (Machine.offered (dropAccepted
    (Machine.boundary s)) owner n taken)).setChan .rx n { s.chan .rx n with tail := k }) rfl rfl rfl (by simp) rfl
  have all := ((((moved.trans drawn).trans given).trans moved').trans tailed).trans tailed.ring.boundary
  simpa only [Machine.handedOver, deliveredBytes, List.nil_append, List.append_nil] using all

/-- Publishing an index of the ring, the ring is kept, and the unread bytes from there on are ahead. -/
theorem RxRing.published (ring : RxRing n s) (running : laneInReset s .rx n = false) {k : Nat}
    (hk : k < cap s.cfg .rx) : RxRing n (published s .rx n k) ∧ Ahead (published s .rx n k) n k ∧
      ringFrom (published s .rx n k) n k = ringFrom s n k := by
  rw [published_of_notInReset running]
  obtain ⟨lane, hardware, wf, ringsOk, base, hw, -⟩ := ring
  have sw : (s.withSw .rx n (toWord k)).rx.sw[n.val].toNat = k := by
    simp [State.withSw, State.setBank, State.bank, toWord_toNat_of_lt_cap hk]
  refine ⟨⟨lane, hardware, wf, ringsOk, base, hw, by rw [sw]; exact hk⟩, ?_, rfl⟩
  rw [Ahead, sw, ringSub_self]
  exact Nat.zero_le _

theorem recheck_flows (ring : RxRing n s) (e : (recheck .rx n h).run s = .ok () t) : Flows n [] s t := by
  have moved := ring.boundary
  obtain ⟨v, u, read, set⟩ := run_bind_ok.mp e
  rw [ld32_hw] at read
  cases read
  cases differs : decide (((boundary s).bank .rx).hw[n.val] ≠ h) with
  | false =>
    rw [differs] at set
    cases set
    exact moved
  | true =>
    rw [differs, opWhen_true, setWork_run] at set
    cases set
    have moved' := moved.ring.boundary
    exact (moved.trans moved').trans (moved'.ring.flows (es := []) rfl rfl rfl (by simp) rfl)

/-- The unaccepted bytes stay unread, and those received until the end join them (R253, R254). -/
theorem published_recheck_flow {i : Nat} (ring : RxRing n s) (running : laneInReset s .rx n = false)
    (hi : i < cap s.cfg .rx) (hacc : acc ≤ ringSub (ringMask s.cfg .rx) s.rx.hw[n.val].toNat i)
    (e : (recheck .rx n h).run (published s .rx n (ringAdd (ringMask s.cfg .rx) i acc)) = .ok () t) :
    RxRing n t ∧ Ahead t n (ringAdd (ringMask s.cfg .rx) i acc) ∧ ∃ es, t.hist = s.hist ++ es ∧
      deliveredBytes n es = [] ∧
      ringFrom t n (ringAdd (ringMask s.cfg .rx) i acc) = (ringFrom s n i).drop acc ++ receivedBytes n es := by
  have next := ringAdd_lt s.cfg .rx i acc
  obtain ⟨ring', ahead, same⟩ := ring.published running next
  obtain ⟨flow, ring''⟩ := recheck_flows ring' e
  obtain ⟨es, hist, given, left⟩ := flow.bytes
  refine ⟨ring'', flow.ahead _ (by rwa [published_cfg]) ahead, es, by rw [hist, published_hist], given, ?_⟩
  rw [left _ (by rwa [published_cfg]) ahead, same, drop_ringFrom ring.hw hi hacc]

/-- What a drain gives away and what it leaves, of the bytes unread and received meanwhile (R253, R254). -/
theorem drainBytes_conserves (ring : RxRing n a) (slot : (a.chan .rx n).slot = .owned owner cb)
    (hb : (a.buf .rx n).toNat + cap a.cfg .rx ≤ 2 ^ 32) (running : laneInReset a .rx n = false)
    (tail : (a.chan .rx n).tail < cap a.cfg .rx) (ahead : Ahead a n (a.chan .rx n).tail)
    (havail : avail ≤ ringSub (ringMask a.cfg .rx) a.rx.hw[n.val].toNat (a.chan .rx n).tail)
    (drawn : nextAccepted a avail = acc)
    (e : (drainBytes n (ringMask a.cfg .rx) (a.chan .rx n).tail avail h).run a = .ok x t) :
    RxRing n t ∧ Ahead t n (ringAdd (ringMask a.cfg .rx) (a.chan .rx n).tail acc) ∧ ∃ es,
      t.hist = a.hist ++ es ∧
      deliveredBytes n es = (ringFrom a n (a.chan .rx n).tail).take acc ∧
      ringFrom a n (a.chan .rx n).tail ++ receivedBytes n es = deliveredBytes n es ++
        ringFrom t n (ringAdd (ringMask a.cfg .rx) (a.chan .rx n).tail acc) := by
  obtain ⟨bs, b, read, -, control, check⟩ := drainBytes_halves slot hb drawn rfl e
  have accepted : acc ≤ avail := drawn ▸ nextAccepted_le a avail
  obtain ⟨reading, whole⟩ := readRing_flows avail 0 a b bs _ ring tail ahead (by omega) read
  have taken : bs.take acc = (ringFrom a n (a.chan .rx n).tail).take acc := by
    rw [take_ringFrom (accepted.trans havail), whole]
    simp only [ringBytesFrom, ringBytes, ← List.map_take, List.take_range, Nat.zero_add, Nat.min_eq_left accepted]
  generalize hu : handedOver b owner n (bs.take acc) (ringAdd (ringMask a.cfg .rx) (a.chan .rx n).tail acc) = u at check
  have halfway : Flows n (bs.take acc) a u := hu ▸ reading.trans (reading.ring.handedOver owner _ _)
  have cfg : u.cfg = a.cfg := halfway.flow.cfg
  obtain ⟨es, hist, given, left⟩ := halfway.flow.bytes
  have left := left _ tail ahead
  have length := ringFrom_length u n (a.chan .rx n).tail
  rw [left, List.length_append, ringFrom_length] at length
  rw [← cfg] at check
  obtain ⟨ring', ahead', es', hist', given', left'⟩ := published_recheck_flow halfway.ring
    (by rw [← hu, handedOver_laneInReset, control_laneInReset control]; exact running) (by rwa [cfg]) (by omega) check
  have given : deliveredBytes n (es ++ es') = (ringFrom a n (a.chan .rx n).tail).take acc := by
    rw [deliveredBytes_append, given, given', List.append_nil, taken]
  refine ⟨ring', cfg ▸ ahead', es ++ es', by rw [hist', hist, List.append_assoc], given, ?_⟩
  have front : (ringFrom a n (a.chan .rx n).tail).take acc =
      (ringFrom a n (a.chan .rx n).tail ++ receivedBytes n es).take acc := by
    rw [List.take_append_of_le_length (by rw [ringFrom_length]; omega)]
  rw [given, ← cfg, left', left, front, receivedBytes_append, ← List.append_assoc, ← List.append_assoc,
    List.take_append_drop]

end

end Sys2Proof.Machine
end

section
/-! RXDRAIN loses no byte and delivers the first, accepted, bytes (43_ring_protocol R245, R248 to R254). -/

namespace Sys2Proof.Machine

section
variable {s t : State} {n : Lane} {owner : Owner} {cb : Callback} {h : Word} {acc : Nat} {x : Ret} {a : List Byte}

/-! ### The bytes of RXDRAIN -/

/-- Nothing unread is lost from the ring: the unread bytes stay in front. -/
theorem Flow.unread_le (flow : Flow n a s t) {i : Nat} (hi : i < cap s.cfg .rx) (ahead : Ahead s n i) :
    ringSub (ringMask s.cfg .rx) s.rx.hw[n.val].toNat i ≤ ringSub (ringMask t.cfg .rx) t.rx.hw[n.val].toNat i ∧
      ∀ k ≤ ringSub (ringMask s.cfg .rx) s.rx.hw[n.val].toNat i,
        (ringFrom t n i).take k = (ringFrom s n i).take k := by
  obtain ⟨es, -, -, left⟩ := flow.bytes
  have left := left i hi ahead
  rw [← ringFrom_length, ← ringFrom_length, left]
  exact ⟨by simp, fun k hk => List.take_append_of_le_length hk⟩

/-- RXDRAIN with bytes to read, on a ring that commands built (R253, R254). -/
theorem rxdrainBody_conserves (ring : RxRing n s) (slot : (s.chan .rx n).slot = .owned owner cb)
    (hb : (s.buf .rx n).toNat + cap s.cfg .rx ≤ 2 ^ 32) (running : laneInReset s .rx n = false)
    (started : (s.chan .rx n).run ≠ .idle) (tail : (s.chan .rx n).tail < cap s.cfg .rx)
    (ahead : Ahead s n (s.chan .rx n).tail) (hw : ((boundary s).bank .rx).hw[n.val] = h)
    (some : h.toNat ≠ (s.chan .rx n).tail)
    (drawn : nextAccepted s (ringSub (ringMask s.cfg .rx) h.toNat (s.chan .rx n).tail) = acc)
    (e : (rxdrainBody n).run s = .ok x t) :
    RxRing n t ∧ Ahead t n (ringAdd (ringMask s.cfg .rx) (s.chan .rx n).tail acc) ∧ ∃ es,
      t.hist = s.hist ++ es ∧
      deliveredBytes n es = ringBytes (boundary s) .rx n (s.chan .rx n).tail acc ∧
      unreadBytes s n ++ receivedBytes n es = deliveredBytes n es ++
        ringFrom t n (ringAdd (ringMask s.cfg .rx) (s.chan .rx n).tail acc) := by
  have first := ring.boundary
  have inRange : h.toNat < cap s.cfg .rx := by
    rw [← hw, ← boundary_cfg s]
    exact first.ring.hw
  have avail : ringSub (ringMask s.cfg .rx) h.toNat (s.chan .rx n).tail ≠ 0 :=
    mt (ringSub_eq_zero s.cfg .rx inRange tail).mp some
  rw [rxdrainBody_eq started hw inRange avail] at e
  generalize ha : (boundary (boundary s)).setChan .rx n { s.chan .rx n with head := h.toNat } = u at e
  have second : Flows n [] (boundary s) u := by
    rw [← ha]
    exact first.ring.boundary.trans (first.ring.boundary.ring.flows (es := []) rfl rfl rfl (by simp) rfl)
  have cfg : u.cfg = s.cfg := (first.trans second).flow.cfg
  have entry : u.chan .rx n = { s.chan .rx n with head := h.toNat } := by rw [← ha, setChan_chan_same]
  have control : (u.chan .rx n).tail = (s.chan .rx n).tail := by rw [entry]
  have draws : nextAccepted u (ringSub (ringMask s.cfg .rx) h.toNat (s.chan .rx n).tail) = acc :=
    (nextAccepted_congr (by simp [← ha]) _).trans drawn
  have tail' : (s.chan .rx n).tail < cap (boundary s).cfg .rx := by simpa using tail
  obtain ⟨further, front⟩ := second.flow.unread_le tail' (first.flow.ahead _ tail ahead)
  have readNow : (boundary s).rx.hw[n.val] = h := hw
  rw [readNow, boundary_cfg] at further front
  have accepted : acc ≤ ringSub (ringMask s.cfg .rx) h.toNat (s.chan .rx n).tail := drawn ▸ nextAccepted_le s _
  obtain ⟨ring', ahead', es', hist', given', left'⟩ := drainBytes_conserves (a := u) (n := n) (owner := owner)
    (cb := cb) (acc := acc) (avail := ringSub (ringMask s.cfg .rx) h.toNat (s.chan .rx n).tail) second.ring
    (by rw [entry]; exact slot) (by simpa [← ha] using hb) (by simpa [← ha] using running)
    (by rw [control, cfg]; exact tail)
    (by rw [control]; exact second.flow.ahead _ tail' (first.flow.ahead _ tail ahead))
    (by rw [control]; exact further) draws (by rw [control, cfg]; exact e)
  obtain ⟨es, hist, given, left⟩ := (first.trans second).flow.bytes
  rw [control] at given' left' ahead'
  rw [cfg] at ahead'
  rw [cfg, left _ tail ahead] at left'
  have given : deliveredBytes n (es ++ es') = deliveredBytes n es' := by
    rw [deliveredBytes_append, given]
    rfl
  refine ⟨ring', ahead', es ++ es', by rw [hist', hist, List.append_assoc], ?_, ?_⟩
  · rw [given, given', front acc accepted, take_ringFrom]
    rw [readNow, boundary_cfg]
    exact accepted
  · rw [given, receivedBytes_append, ← List.append_assoc, unreadBytes_eq, left']

/-- From `s` to `t` no unread byte of lane `n` was lost or doubled: those unread before and those received are, in
order, those delivered and those unread after. -/
structure Conserved (n : Lane) (s t : State) : Prop where
  ring : RxRing n t
  tail : (t.chan .rx n).tail < cap t.cfg .rx
  ahead : Ahead t n (t.chan .rx n).tail
  bytes : ∃ es, t.hist = s.hist ++ es ∧
    unreadBytes s n ++ receivedBytes n es = deliveredBytes n es ++ unreadBytes t n

/-- RXDRAIN with nothing to read, on such a ring. -/
theorem rxdrainBody_conserves_nothing (ring : RxRing n s) (started : (s.chan .rx n).run ≠ .idle)
    (tail : (s.chan .rx n).tail < cap s.cfg .rx) (ahead : Ahead s n (s.chan .rx n).tail)
    (none : ((boundary s).bank .rx).hw[n.val].toNat = (s.chan .rx n).tail)
    (e : (rxdrainBody n).run s = .ok x t) : Conserved n s t := by
  have run : (rxdrainBody n).run s = .ok (okValue 0)
      ((boundary (boundary s)).setChan .rx n { s.chan .rx n with head := (s.chan .rx n).tail }) := by
    simp [rxdrainBody, drainActive, started, none, tail, drainFrom, ringSub_self]
  rw [run] at e
  cases e
  have moved := ring.boundary.trans ring.boundary.ring.boundary
  have flows := moved.trans (moved.ring.flows (es := []) (t := (boundary (boundary s)).setChan .rx n
    { s.chan .rx n with head := (s.chan .rx n).tail }) rfl rfl rfl (by simp) rfl)
  obtain ⟨es, hist, given, left⟩ := flows.flow.bytes
  refine ⟨flows.ring, by simpa using tail, ?_, es, hist, ?_⟩
  · rw [setChan_chan_same]
    exact flows.flow.ahead _ tail ahead
  · rw [given, unreadBytes_eq, unreadBytes_eq, setChan_chan_same, left _ tail ahead]
    rfl

/-- After its body a command answers, which gives nothing away. -/
theorem Conserved.ended (h : Conserved n s t) (i : Instr) (r : Ret) :
    ∃ es, (endCommand i r (boundary t)).hist = s.hist ++ es ∧
      unreadBytes s n ++ receivedBytes n es = deliveredBytes n es ++ unreadBytes (endCommand i r (boundary t)) n := by
  obtain ⟨ring, tail, ahead, es, hist, bytes⟩ := h
  have moved := ring.boundary
  have flows := moved.trans (moved.ring.flows (es := [.result i r.code r.value]) (t := endCommand i r (boundary t))
    rfl rfl rfl rfl rfl)
  obtain ⟨es', hist', given', left'⟩ := flows.flow.bytes
  have given' : deliveredBytes n es' = [] := given'
  refine ⟨es ++ es', by rw [hist', hist, List.append_assoc], ?_⟩
  rw [receivedBytes_append, ← List.append_assoc, bytes, deliveredBytes_append, given', List.append_nil,
    List.append_assoc, unreadBytes_eq, unreadBytes_eq, endCommand_chan, boundary_chan, left' _ tail ahead]

end

/-! ### In the states that commands build (R49) -/

section
variable {s : State} {n : Lane}

/-- The receive ring of a lane as commands leave it. -/
theorem CommandInv.rxRing (h : CommandInv s) (hn : s.cfg.hasLane n = true) (hc : s.cfg.hwMayCorrupt = false) :
    RxRing n s where
  lane := hn
  hardware := hc
  mem := h.core.parts.memCanonical
  ringsOk := h.ringsOk
  base m hm := (h.lane .rx m hm).baseIsBuffer
  hw := (h.core.parts.lane .rx n).hwInRange hc
  sw := (h.core.parts.lane .rx n).swInRange

/-- The start of a command is no part of the ring. -/
theorem RxRing.begun (ring : RxRing n s) (i : Instr) : RxRing n (beginCommand i s) :=
  let ⟨a, b, c, d, e, f, g⟩ := ring
  ⟨a, b, c, d, e, f, g⟩

/-- The published `tail` of a started lane is ahead of itself (R49 clause 5). -/
theorem CommandInv.tailAhead (h : CommandInv s) (hn : s.cfg.hasLane n = true) (started : (s.chan .rx n).run ≠ .idle) :
    Ahead s n (s.chan .rx n).tail := by
  have tail := (h.core.parts.lane .rx n).tailInRange
  have sw : s.rx.sw[n.val] = toWord (s.chan .rx n).tail := (h.lane .rx n hn).published started
  rw [Ahead, sw, toWord_toNat_of_lt_cap tail, ringSub_self]
  exact Nat.zero_le _

/-- RXDRAIN of a started lane answers, and conserves its bytes. -/
theorem CommandInv.rxdrainBody (h : CommandInv s) (hn : s.cfg.hasLane n = true) (hc : s.cfg.hwMayCorrupt = false)
    (started : (s.chan .rx n).run ≠ .idle) (i : Instr) :
    ∃ x t, (rxdrainBody n).run (beginCommand i s) = .ok x t ∧ (t.chan .rx n).run = (s.chan .rx n).run ∧
      Conserved n (beginCommand i s) t := by
  have tail := (h.core.parts.lane .rx n).tailInRange
  have owned := h.core.startedOwned .rx n started
  obtain ⟨owner, cb, slot⟩ := owned_iff.mp owned
  have top := (commandInv_iff.mp h).2.ringBelowTop hn owned
  have running := (h.lane .rx n hn).notInReset
  have ring := (h.rxRing hn hc).begun i
  have ahead : Ahead (beginCommand i s) n (s.chan .rx n).tail := h.tailAhead hn started
  have entry : (beginCommand i s).chan .rx n = s.chan .rx n := beginCommand_chan ..
  by_cases none : ((boundary (beginCommand i s)).bank .rx).hw[n.val].toNat = (s.chan .rx n).tail
  · obtain ⟨t, run, did⟩ := rxdrain_nothing (beginCommand i s) n started tail (by rwa [entry])
    refine ⟨_, t, run, ?_, rxdrainBody_conserves_nothing ring started tail ahead (by rwa [entry]) run⟩
    rw [control_chan did.control, setChan_chan_same, entry]
  · have inRange : ((boundary (beginCommand i s)).bank .rx).hw[n.val].toNat < cap (beginCommand i s).cfg .rx := by
      rw [← boundary_cfg (beginCommand i s)]
      exact ring.boundary.ring.hw
    obtain ⟨w, t, bs, run, -, did, -⟩ := rxdrain_run (beginCommand i s) n owner cb _ started slot tail top rfl
      inRange (by rwa [entry])
    obtain ⟨ring', ahead', es, hist, -, bytes⟩ := rxdrainBody_conserves ring slot top running started tail ahead rfl
      (by rwa [entry]) rfl run
    have left : t.chan .rx n = (drained (beginCommand i s) n _ _ w).chan .rx n := control_chan did.control .rx n
    rw [drained, setChan_chan_same] at left
    refine ⟨_, t, run, ?_, ring', ?_, by rw [left]; exact ahead', es, hist, ?_⟩
    · rw [left]
      show ((beginCommand i s).chan .rx n).run = _
      rw [entry]
    · rw [left, did.kept.cfg]
      exact ringAdd_lt ..
    · rw [unreadBytes_eq t, left]
      exact bytes

end

/-! ### The re-check, once the lane agents have waited -/

section
variable {s b t : State} {n : Lane} {owner : Owner} {cb : Callback} {h : Word}

theorem readRing_waits (n : Lane) (mask i k : Nat) : ∀ (j : Nat) (s t : State) (bs : List Byte),
    (readRing .rx n mask i j k).run s = .ok bs t → Waits k s t := by
  induction k with
  | zero =>
    intro j s t bs e
    cases e
    exact waits_zero rfl (.refl s)
  | succ k ih =>
    intro j s t bs e
    obtain ⟨c, u, first, rest⟩ := run_bind_ok.mp e
    obtain ⟨cs, v, others, done⟩ := run_bind_ok.mp rest
    cases done
    obtain ⟨-, rfl⟩ := readRingByte_ok first
    rw [Nat.add_comm]
    exact (waits_boundary s).trans (ih _ _ _ _ others)

theorem offered_waits (s : State) (owner : Owner) (n : Lane) (bytes : List Byte) :
    Waits (if bytes = [] then 0 else 2) s (offered s owner n bytes) := by
  have emitted (u : State) (e : Event) : Waits 1 u ((boundary u).log e) :=
    (waits_boundary u).trans (waits_zero (t := (boundary u).log e) rfl ⟨rfl, fun _ => log_bank ..⟩)
  unfold offered
  split
  · exact waits_zero rfl (.refl s)
  · exact (emitted s _).trans (emitted _ _)

theorem handedOver_waits (s : State) (owner : Owner) (n : Lane) (taken : List Byte) (k : Nat) :
    Waits (if taken = [] then 3 else 5) s (handedOver s owner n taken k) := by
  have drawn : Waits 1 s (dropAccepted (boundary s)) :=
    (waits_boundary s).trans (waits_zero (t := dropAccepted (boundary s)) rfl ⟨rfl, dropAccepted_bank _⟩)
  have all := ((drawn.trans (offered_waits _ owner n taken)).trans (waits_setChan _ .rx n { s.chan .rx n with
    tail := k })).trans (waits_boundary _)
  unfold handedOver
  split <;> rename_i none <;> simpa [none] using all

/-- Where the lane agents first move just before the second read of the pointer, they do so in the drained state. -/
theorem boundary_handedOver {acc avail k : Nat} {taken bs : List Byte} {later : List LaneStep}
    {rest : List (List LaneStep)} (hk : ringAdd (ringMask s.cfg .rx) (s.chan .rx n).tail acc = k)
    (length : taken.length = acc)
    (hs : s.sched = List.replicate (avail + if acc = 0 then 5 else 7) [] ++ later :: rest)
    (read : (readRing .rx n (ringMask s.cfg .rx) (s.chan .rx n).tail 0 avail).run
      ((boundary (boundary s)).setChan .rx n { s.chan .rx n with head := h.toNat }) = .ok bs b) :
    SameRegs (laneSteps (drained s n h.toNat acc false) later)
      (boundary (published (handedOver b owner n taken k) .rx n k)) := by
  have waits := (((waits_boundary s).trans (waits_setChan (boundary s) .rx n _)).trans
    (readRing_waits n _ _ _ _ _ _ _ read)).trans (handedOver_waits b owner n taken k)
  have count : (1 + 1 + avail + if taken = [] then 3 else 5) = avail + if acc = 0 then 5 else 7 := by
    have none : taken = [] ↔ acc = 0 := by rw [← length, List.length_eq_zero_iff]
    simp only [none]
    split <;> omega
  rw [count] at waits
  obtain ⟨sched, regs⟩ := waits _ hs
  have written := regs.published .rx n k
  have start : SameRegs (published s .rx n k) (drained s n h.toNat acc false) := by
    rw [drained, hk]
    have drawn : SameRegs s (dropAccepted s) := ⟨rfl, dropAccepted_bank s⟩
    exact (drawn.published .rx n k).trans (.setChan ..)
  refine SameRegs.trans (SameRegs.laneSteps later ?_) (.boundary (by rw [published_sched]; exact sched))
  exact ⟨by rw [written.cfg, start.cfg], fun d => by rw [written.bank, start.bank]⟩

/-- The work flag that RXDRAIN leaves (R251): the second read of the pointer is its last access. -/
theorem rxdrainBody_work {later : List LaneStep} {rest : List (List LaneStep)} {acc avail : Nat} {x : Ret}
    (started : (s.chan .rx n).run ≠ .idle) (slot : (s.chan .rx n).slot = .owned owner cb)
    (hb : (s.buf .rx n).toNat + cap s.cfg .rx ≤ 2 ^ 32) (hw : ((boundary s).bank .rx).hw[n.val] = h)
    (hlt : h.toNat < cap s.cfg .rx) (havail : ringSub (ringMask s.cfg .rx) h.toNat (s.chan .rx n).tail = avail)
    (some : avail ≠ 0) (drawn : nextAccepted s avail = acc) (e : (rxdrainBody n).run s = .ok x t)
    (hs : s.sched = List.replicate (avail + if acc = 0 then 5 else 7) [] ++ later :: rest) :
    (t.chan .rx n).work = ((s.chan .rx n).work ||
      decide ((laneSteps (drained s n h.toNat acc false) later).rx.hw[n.val] ≠ h)) := by
  rw [rxdrainBody_eq started hw hlt (by rwa [havail]), havail] at e
  generalize ha : (boundary (boundary s)).setChan .rx n { s.chan .rx n with head := h.toNat } = a at e
  have entry : a.chan .rx n = { s.chan .rx n with head := h.toNat } := by rw [← ha, setChan_chan_same]
  have cfg : a.cfg = s.cfg := by simp [← ha]
  obtain ⟨bs, b, read, length, control, check⟩ := drainBytes_halves (a := a) (n := n) (owner := owner) (cb := cb)
    (by rw [entry]; exact slot) (by simpa [← ha] using hb) ((nextAccepted_congr (by simp [← ha]) _).trans drawn)
    (by rw [cfg, entry]) (by rw [cfg, entry]; exact e)
  rw [cfg, entry, ← ha] at read
  have taken : (bs.take acc).length = acc := by
    rw [List.length_take, length, ← drawn, Nat.min_eq_left (nextAccepted_le s avail)]
  have last := boundary_handedOver (owner := owner) rfl taken hs read
  rw [recheck_work check, last.bank .rx, published_chan, handedOver_chan, control_chan control, entry]
  rfl

theorem quietPart_drained (s : State) (n : Lane) (h acc : Nat) (w : Bool) :
    quietPart (drained s n h acc w) = drained (quietPart s) n h acc w := by
  simp [drained]

end

/-- The bytes that RXDRAIN's own events name are those of the ring where the pointer was read (R248, R249). -/
theorem rxdrainBody_delivered {s u t : State} {n : Lane} {owner : Owner} {cb : Callback} {h : Word} {acc : Nat}
    {x : Ret} {bytes : List Byte} (ring : RxRing n s) (slot : (s.chan .rx n).slot = .owned owner cb)
    (hb : (s.buf .rx n).toNat + cap s.cfg .rx ≤ 2 ^ 32) (running : laneInReset s .rx n = false)
    (started : (s.chan .rx n).run ≠ .idle) (tail : (s.chan .rx n).tail < cap s.cfg .rx)
    (ahead : Ahead s n (s.chan .rx n).tail) (hw : ((boundary s).bank .rx).hw[n.val] = h)
    (some : h.toNat ≠ (s.chan .rx n).tail)
    (drawn : nextAccepted s (ringSub (ringMask s.cfg .rx) h.toNat (s.chan .rx n).tail) = acc)
    (e : (rxdrainBody n).run s = .ok x t) (did : Did (drainEvents owner n bytes) s u t) :
    bytes = ringBytes (boundary s) .rx n (s.chan .rx n).tail acc := by
  obtain ⟨-, -, es, hist, given, -⟩ := rxdrainBody_conserves ring slot hb running started tail ahead hw some drawn e
  obtain ⟨es', hist', own⟩ := did.grew
  obtain rfl : es' = es := List.append_cancel_left (hist'.symm.trans hist)
  rw [← given, ← deliveredBytes_own, own, deliveredBytes_drainEvents]

/-- Settles O42: what RXDRAIN leaves is `rxdrain_run`'s; the bytes are those its `Deliver` event names; its work flag is
the re-check's. -/
theorem rxdrainDeliversAccepted : Obligations.RxdrainDeliversAccepted := by
  intro s f n owner cb h ha hn started slot tail top hw hlt some avail acc
  have lane := laneOf_hasLane hn
  have available : avail ≠ 0 := mt (ringSub_eq_zero s.cfg .rx hlt tail).mp some
  have start : quietPart (beginCommand (.rxdrain f) s) = quietPart s := rfl
  have read : ((boundary (beginCommand (.rxdrain f) s)).bank .rx).hw[n.val] = h := by
    rw [boundary_beginCommand_bank]
    exact hw
  obtain ⟨w, t, bytes, run, length, did, keeps, quiet⟩ := rxdrain_run (beginCommand (.rxdrain f) s) n owner cb h
    started slot tail top read hlt some
  have flag : (t.chan .rx n).work = w := by rw [control_chan did.control, drained, setChan_chan_same]
  have same (v : Bool) : quietPart (drained (beginCommand (.rxdrain f) s) n h.toNat acc v) =
      quietPart (drained s n h.toNat acc v) := by
    rw [quietPart_drained, start, ← quietPart_drained]
  refine ⟨_, w, bytes, by rw [exec_lane rfl ha hn, run, finished_ok]; rfl, (did.congr (same w)).ended _, length,
    fun hs => (quiet hs).2, fun inv hc => ?_, keeps, fun hs => (quiet hs).1, fun later rest hs => ?_⟩
  · have ring := (inv.rxRing lane hc).begun (.rxdrain f)
    have ahead : Ahead (beginCommand (.rxdrain f) s) n (s.chan .rx n).tail := inv.tailAhead lane started
    rw [rxdrainBody_delivered ring slot top (inv.lane .rx n lane).notInReset started tail ahead read some rfl run did,
      boundary, interleave_beginCommand]
    rfl
  · have registers : (laneSteps (drained (beginCommand (.rxdrain f) s) n h.toNat acc false) later).rx =
        (laneSteps (drained s n h.toNat acc false) later).rx :=
      ((SameRegs.of_quiet (same false)).laneSteps later).bank .rx
    rw [← registers, ← flag]
    exact rxdrainBody_work (s := beginCommand (.rxdrain f) s) started slot top read hlt rfl available rfl run hs

/-- Settles O43: the body conserves the bytes, the answer gives none away; and the invariant has `tail` published. -/
theorem receiveLosesNoByte : Obligations.ReceiveLosesNoByte := by
  intro s f n inv ha hn hc started
  have lane := laneOf_hasLane hn
  obtain ⟨x, t, run, state, conserved⟩ := inv.rxdrainBody lane hc started (.rxdrain f)
  have answer : exec (.rxdrain f) s = .next (endCommand (.rxdrain f) x (boundary t)) := by
    rw [exec_lane rfl ha hn, run, finished_ok]
  obtain ⟨es, hist, bytes⟩ := conserved.ended (.rxdrain f) x
  refine ⟨_, es, answer, hist, bytes, ?_⟩
  have inv' : CommandInv (endCommand (.rxdrain f) x (boundary t)) :=
    (commandsKeepDiscipline s (.rxdrain f) inv rfl).1 _ answer
  have lane' : (endCommand (.rxdrain f) x (boundary t)).cfg.hasLane n = true := by
    have cfg := (effects_kept_ok (fun _ => effects_rxdrainBody n) run).cfg
    simpa [cfg] using lane
  exact (inv'.lane .rx n lane').published (by simpa [state] using started)

end Sys2Proof.Machine
end

section
/-! WORK (43_ring_protocol R256, R262): once the flag is cleared it is RXDRAIN, or TXCOMP and then TXPROD of the drawn
offer. A command's outcome does not depend on which command was running, so each job ends as its own command does. -/

namespace Sys2Proof.Machine

/-! ### What a piece leaves does not depend on which command runs it -/

section
variable {α : Type} {s t u : State} {i j : Instr} {r : Ret}

/-- A piece's result, which command runs and what it has read left out. -/
def quietResult : EStateM.Result Stop State α → EStateM.Result Stop State α
  | .ok a t => .ok a (quietPart t)
  | .error e t => .error e (quietPart t)

theorem boundary_quietPart (s : State) : boundary (quietPart s) = quietPart (boundary s) := by
  have frame := interleave_frame s
  have agents : interleave (quietPart s) = (interleave s).withBusiness none [] s.inbox s.draws :=
    interleave_withBusiness s none [] s.inbox s.draws
  rw [boundary, agents, ← frame.inbox, ← frame.draws]
  rfl

theorem tame_run_quietPart {x : Op α} (h : x.tame) : ∀ s, x.run (quietPart s) = quietResult (x.run s) := by
  induction x with
  | done a => exact fun _ => rfl
  | stop e => exact fun _ => rfl
  | config k ih => exact fun s => ih s.cfg (h s.cfg) s
  | look f k ih =>
    intro s
    have same : f (quietPart s) = f s := h.1 s _ rfl
    simp only [Op.run, same]
    exact ih (f s) (h.2 (f s)) s
  | access f k ih =>
    intro s
    have same : f (quietPart (boundary s)) = (f (boundary s)).map fun p => (p.1, quietPart p.2) :=
      h.1 (boundary s) none []
    simp only [Op.run, boundary_quietPart, same]
    cases f (boundary s) with
    | error e => rfl
    | ok p => exact ih p.1 (h.2 p.1) p.2

theorem finished_quietResult (i : Instr) (x : EStateM.Result Stop State Ret) :
    finished i (quietResult x) = finished i x := by
  cases x with
  | ok r t =>
    rw [quietResult, finished_ok, boundary_quietPart]
    rfl
  | error e t => rfl

/-- A command ends alike from states that differ in which command runs and what it has read only. -/
theorem finished_congr {x : Op Ret} (h : x.tame) (same : quietPart s = quietPart t) :
    finished i (x.run s) = finished i (x.run t) := by
  rw [← finished_quietResult, ← tame_run_quietPart h, same, tame_run_quietPart h, finished_quietResult]

/-- A lane command is its body. -/
theorem exec_lane_body {f : LaneField} {n : Lane} {body : Lane → Op Ret}
    (hi : commandOf i = some (laneProgram i f body)) (ha : s.attached = true) (hn : laneOf s.cfg f = some n)
    (tame : (body n).tame) : exec i s = finished i ((body n).run s) := by
  rw [exec_lane hi ha hn]
  exact finished_congr tame rfl

/-- A command that answered ended its body. -/
theorem finished_next {x : EStateM.Result Stop State Ret} (h : finished i x = .next t) :
    ∃ r u, x = .ok r u ∧ t = endCommand i r (boundary u) := by
  cases x with
  | ok r u =>
    cases h
    exact ⟨r, u, rfl, rfl⟩
  | error e u => exact absurd h (e.outcome_ne_next t)

/-- A command that faulted did so in its body, whose fault it is under any name. -/
theorem finished_fault {x : EStateM.Result Stop State Ret} {e : Fault} (h : finished i x = .fault e) :
    ∃ u, x = .error (.fault e) u := by
  cases x with
  | ok r u => cases h
  | error e' u =>
    cases e' with
    | fault e' =>
      cases h
      exact ⟨u, rfl⟩
    | refused e' => cases h

theorem endCommand_last (i : Instr) (r : Ret) (s : State) :
    (endCommand i r s).hist.getLast? = some (.result i r.code r.value) := by
  simp [endCommand, State.log]

/-- A `Result` renamed is another command's. -/
theorem relabelled_endCommand (i j : Instr) (r q : Ret) (s : State) :
    relabelled (endCommand i r s) j q = endCommand j q s := by
  simp [relabelled, endCommand, State.log]

/-- The `Result` taken back. -/
theorem quietPart_endCommand_back (i : Instr) (r : Ret) (s : State) :
    quietPart ((endCommand i r s).setHist (endCommand i r s).hist.dropLast) = quietPart s := by
  simp [endCommand, State.log, State.setHist, quietPart]

end

/-! ### What TXCOMP and TXPROD leave alone -/

/-- Whether the driver is attached, and the receive bases, stay at each micro-step. -/
def Op.unmoved {α : Type} (x : Op α) : Prop :=
  ∀ c, x.each c fun s t => t.cfg = s.cfg ∧ t.attached = s.attached ∧ t.rx.base = s.rx.base

section
variable {α β : Type}

theorem unmoved_done (a : α) : (Op.done a).unmoved := fun _ => trivial

theorem unmoved_bind {x : Op α} {f : α → Op β} (h : x.unmoved) (k : ∀ a, (f a).unmoved) : (x.bind f).unmoved :=
  fun c => each_bind (h c) fun a => k a c

theorem unmoved_params {f : Params → Op β} (h : ∀ c, (f c).unmoved) : (params.bind f).unmoved :=
  fun c => each_params (h c c)

theorem unmoved_lookChan {d : Dir} {n : Lane} {f : Chan → Op β} (h : ∀ e, (f e).unmoved) :
    ((lookChan d n).bind f).unmoved := fun c => each_lookChan fun e => h e c

theorem unmoved_lookBuf {d : Dir} {n : Lane} {f : Word → Op β} (h : ∀ a, (f a).unmoved) :
    ((lookBuf d n).bind f).unmoved := fun c => each_lookBuf fun a => h a c

theorem unmoved_ite {p : Prop} [Decidable p] {x y : Op α} (h : x.unmoved) (k : y.unmoved) :
    (if p then x else y).unmoved := by split <;> assumption

theorem unmoved_opWhen (b : Bool) {x : Op Unit} (h : x.unmoved) : (opWhen b x).unmoved :=
  fun c => each_opWhen fun _ => h c

theorem unmoved_emit (e : Event) : (emit e).unmoved := fun _ =>
  ⟨fun s x t _ h => by cases h; exact ⟨rfl, rfl, rfl⟩, fun _ => trivial⟩

theorem unmoved_updateChan (d : Dir) (n : Lane) (f : Chan → Chan) : (updateChan d n f).unmoved := fun _ =>
  ⟨fun s x t _ h => by cases h; cases d <;> exact ⟨rfl, rfl, rfl⟩, fun _ => trivial⟩

theorem unmoved_ld32 (r : Reg) : (ld32 r).unmoved := fun _ =>
  ⟨fun s x t _ h => by cases h; cases r <;> exact ⟨rfl, rfl, rfl⟩, fun _ => trivial⟩

theorem unmoved_emitOwned (d : Dir) (n : Lane) (e : Owner → Event) : (emitOwned d n e).unmoved :=
  unmoved_lookChan fun entry => by
    cases entry.slot with
    | free => exact unmoved_done ()
    | owned => exact unmoved_emit _

end

/-- Of the registers only `RX_BASE` holds the receive bases. -/
theorem regWrite_rx_base {r : Reg} {v : Word} {s t : State} (hr : ∀ n, r ≠ .base .rx n)
    (h : regWrite r v s = .ok t) :
    t.rx.base = s.rx.base := by
  cases r with
  | base d n =>
    cases d with
    | rx => exact absurd rfl (hr n)
    | tx =>
      simp only [regWrite] at h
      split at h
      · cases h
      · split at h <;> cases h
        rfl
  | hw d n | sw d n =>
    simp only [regWrite] at h
    split_ifs at h <;> cases h <;> cases d <;> rfl
  | en d | rst d | ier d =>
    simp only [regWrite] at h
    split_ifs at h
    cases h
    cases d <;> rfl
  | isr d =>
    cases h
    cases d <;> rfl
  | bufSz =>
    simp only [regWrite] at h
    split_ifs at h
    cases h
    rfl
  | rxTimeout =>
    cases h
    rfl

section
variable (n : Lane)

theorem unmoved_st32 {r : Reg} (hr : ∀ m, r ≠ .base .rx m) (v : Word) : (st32 r v).unmoved := fun _ =>
  each_st32 fun _ _ _ h => by
    obtain ⟨kept, -, -, -, -, -, -, attached, -⟩ := regWrite_kept h
    exact ⟨kept.cfg, attached, regWrite_rx_base hr h⟩

theorem unmoved_pulse (d : Dir) : (pulse d n).unmoved :=
  unmoved_bind (unmoved_st32 (by simp) _) fun _ => unmoved_st32 (by simp) _

theorem unmoved_stopSequence : (stopSequence .tx n).unmoved :=
  unmoved_bind (unmoved_params fun _ => unmoved_bind (unmoved_ld32 _) fun _ => unmoved_st32 (by simp) _) fun _ =>
    unmoved_bind (unmoved_pulse n .tx) fun _ =>
      unmoved_bind (unmoved_bind (unmoved_st32 (by simp) _) fun _ => unmoved_st32 (by simp) _) fun _ =>
        unmoved_lookBuf fun _ => unmoved_bind (unmoved_st32 (by simp) _) fun _ =>
          unmoved_bind (unmoved_updateChan _ _ _) fun _ => unmoved_updateChan _ _ _

theorem unmoved_corruptPath : (corruptPath .tx n).unmoved :=
  unmoved_bind (unmoved_emit _) fun _ => unmoved_bind (unmoved_stopSequence n) fun _ =>
    unmoved_bind (unmoved_emitOwned _ _ _) fun _ => unmoved_done _

theorem unmoved_completeTo (r : Word) : (completeTo n r).unmoved :=
  unmoved_bind (unmoved_updateChan _ _ _) fun _ =>
    unmoved_bind (unmoved_lookChan fun _ => unmoved_opWhen _ (unmoved_st32 (by simp) _)) fun _ =>
      unmoved_bind (unmoved_bind (unmoved_ld32 _) fun _ => unmoved_opWhen _ (unmoved_updateChan _ _ _)) fun _ =>
        unmoved_done _

theorem unmoved_txcompBody : (txcompBody n).unmoved :=
  unmoved_lookChan fun _ => unmoved_ite (unmoved_done _) (unmoved_params fun _ => unmoved_bind (unmoved_ld32 _) fun _ =>
    unmoved_lookChan fun _ => unmoved_ite (unmoved_completeTo n _) (unmoved_corruptPath n))

/-- TXCOMP leaves the driver attached and the lane owned, or free, as it was. -/
theorem txcompBody_kept {s t : State} {x : Ret} (h : (txcompBody n).run s = .ok x t) :
    t.cfg = s.cfg ∧ t.attached = s.attached ∧ (t.chan .tx n).slot = (s.chan .tx n).slot := by
  have kept := each_run (unmoved_txcompBody n s.cfg) (fun _ => ⟨rfl, rfl, rfl⟩)
    (fun ⟨a, b, c⟩ ⟨a', b', c'⟩ => ⟨a'.trans a, b'.trans b, c'.trans c⟩)
    (fun u => ⟨boundary_cfg u, boundary_attached u, boundary_rx_base u⟩) And.left s rfl
  rw [h] at kept
  exact ⟨kept.1, kept.2.1, (steady_run (p := noLane) (steady_txcompBody n) h).slot .tx n⟩

end

/-! ### WORK (R262) -/

section
variable {s t : State} {d : Dir} {f : LaneField} {n : Lane} {r : Ret}

/-- The state in which a worker's job begins: one slot of lane agents has moved, and the flag is cleared. -/
def jobBegun (s : State) (d : Dir) (n : Lane) : State :=
  (interleave s).setChan d n { s.chan d n with work := false }

theorem controlPart_jobBegun (s : State) (d : Dir) (n : Lane) :
    controlPart (jobBegun s d n) = controlPart (s.setChan d n { s.chan d n with work := false }) := by
  simp [jobBegun, controlPart_interleave]

theorem jobBegun_cfg (s : State) (d : Dir) (n : Lane) : (jobBegun s d n).cfg = s.cfg :=
  (control_cfg (controlPart_jobBegun s d n)).trans (setChan_cfg ..)

theorem jobBegun_attached (s : State) (d : Dir) (n : Lane) : (jobBegun s d n).attached = s.attached :=
  (control_attached (controlPart_jobBegun s d n)).trans (setChan_attached ..)

theorem jobBegun_buf (s : State) (d : Dir) (n : Lane) : (jobBegun s d n).buf d n = s.buf d n :=
  (control_buf (controlPart_jobBegun s d n) d n).trans (setChan_buf ..)

theorem jobBegun_chan (s : State) (d : Dir) (n : Lane) :
    (jobBegun s d n).chan d n = { s.chan d n with work := false } := setChan_chan_same ..

theorem workBody_run (work : (s.chan d n).work = true) : (workBody d n).run s =
    (workJob n d).run ((boundary s).setChan d n { s.chan d n with work := false }) := by
  simp [workBody, work]

theorem tame_workJob (d : Dir) (n : Lane) : (workJob n d).tame := by
  cases d
  · exact tame_workTx n
  · exact tame_rxdrainBody n

/-- WORK with work pending is its job. -/
theorem exec_work (ha : s.attached = true) (hn : laneOf s.cfg f = some n) (work : (s.chan d n).work = true) :
    exec (.work d f) s = finished (.work d f) ((workJob n d).run (jobBegun s d n)) := by
  rw [exec_lane_body rfl ha hn (tame_workBody d n), workBody_run work]
  exact finished_congr (tame_workJob d n) (by cases d <;> rfl)

theorem workTx_corrupt (h : (txcompBody n).run s = .ok r t) (corrupt : r.code = .corruptPointer) :
    (workTx n).run s = .ok r t := by
  simp [workTx, h, corrupt]

theorem workTx_refill (h : (txcompBody n).run s = .ok r t) (completed : r.code ≠ .corruptPointer) :
    (workTx n).run s = (workRefill n).run t := by
  simp [workTx, h, completed]

theorem workTx_stops {e : Stop} (h : (txcompBody n).run s = .error e t) : (workTx n).run s = .error e t := by
  simp [workTx, h]

theorem workRefill_free (free : (s.chan .tx n).slot = .free) :
    (workRefill n).run s = .ok okRet (dropStream (boundary s)) := by
  simp [workRefill, free, Slot.isOwned]

theorem workRefill_owned (owned : (s.chan .tx n).slot.isOwned = true) : (workRefill n).run s =
    ((txprodBody (nextStream s).1 (nextStream s).2 n).bind fun _ => .done okRet).run (dropStream (boundary s)) := by
  simp [workRefill, owned]

/-! ### A worker's job on a corrupt pointer (R242) -/

/-- What a job did is told from where WORK began. -/
theorem Did.worked {own : List Event} (h : Did own (jobBegun s d n) (stopped (jobBegun s d n) d n) t) :
    Did own (beginCommand i s) (stopped (s.setChan d n { s.chan d n with work := false }) d n) t where
  control := by
    have begun := controlPart_jobBegun s d n
    rw [h.control]
    simp only [stopped, controlPart_setChan, controlPart_withBase, controlPart_pulsed, controlPart_withEn,
      controlPart_dropReserved, begun, control_chan begun, control_buf begun, control_en begun, control_cfg begun]
  kept := by
    have start : Kept (beginCommand i s) (jobBegun s d n) := by
      obtain ⟨cfg, faulted, refused, inbox, readData, pace, hist⟩ := (interleave_frame s).kept
      cases d <;> exact ⟨cfg, faulted, refused, inbox, readData, pace, hist⟩
    exact start.trans h.kept
  grew := by
    have start : Grew [] (beginCommand i s) (jobBegun s d n) := by
      obtain ⟨es, hist, own⟩ := grew_boundary s
      exact ⟨es, (setChan_hist ..).trans hist, own⟩
    exact start.trans h.grew
  quiet hs := by
    have quiet : s.sched = [] := hs
    have begun : jobBegun s d n = s.setChan d n { s.chan d n with work := false } := by
      rw [jobBegun, interleave_quiet quiet]
    rw [begun] at h
    simpa using h.quiet (by simpa using quiet)

/-- With the same slot of lane agents to move. -/
theorem SameRegs.slot {s t : State} (h : SameRegs s t) (sched : t.sched = s.sched) :
    SameRegs (Machine.boundary s) (Machine.boundary t) := by
  cases hs : s.sched with
  | nil =>
    rw [boundary_quiet hs, boundary_quiet (sched.trans hs)]
    exact ⟨h.cfg, fun d => (advanceCur_bank ..).trans ((h.bank d).trans (advanceCur_bank ..).symm)⟩
  | cons l rest =>
    have left := SameRegs.boundary hs
    have right := (h.laneSteps l).trans (.boundary (sched.trans hs))
    exact ⟨right.cfg.trans left.cfg.symm, fun d => (right.bank d).trans (left.bank d).symm⟩

theorem jobBegun_hw (s : State) (d : Dir) (n : Lane) :
    ((boundary (jobBegun s d n)).bank d).hw[n.val] = ((interleave (interleave s)).bank d).hw[n.val] := by
  have same : SameRegs (boundary (interleave s)) (boundary (jobBegun s d n)) :=
    (SameRegs.setChan (interleave s) d n _).slot (setChan_sched ..)
  rw [same.bank]
  rfl

theorem workJob_corrupt {owner : Owner} {cb : Callback} (lane : s.cfg.hasLane n = true)
    (hal : aligned s.cfg (s.buf d n) = true) (slot : (s.chan d n).slot = .owned owner cb)
    (started : (s.chan d n).run ≠ .idle)
    (hv : cap s.cfg d ≤ ((interleave (interleave s)).bank d).hw[n.val].toNat ∨ (d = .tx ∧ pendingCount s .tx n <
      ringSub (ringMask s.cfg .tx) ((interleave (interleave s)).bank d).hw[n.val].toNat (s.chan .tx n).tail)) :
    StopsCorrupt (workJob n d) (jobBegun s d n) d n owner := by
  have entry := jobBegun_chan s d n
  have cfg := jobBegun_cfg s d n
  have buf := jobBegun_buf s d n
  rw [← jobBegun_hw] at hv
  cases d with
  | rx =>
    exact rxdrainBody_corrupt (by rwa [cfg]) (by rwa [cfg, buf]) (by rw [entry]; exact slot) (by rwa [entry])
      (by rw [cfg]; exact hv.resolve_right (by simp))
  | tx =>
    obtain ⟨t, run, did⟩ := txcompBody_corrupt (s := jobBegun s .tx n) (n := n) (by rwa [cfg]) (by rwa [cfg, buf])
      (by rw [entry]; exact slot) (by rwa [entry])
      (by rw [cfg, entry]; exact consumedOk_eq_false.mpr (hv.imp id And.right))
    exact ⟨t, workTx_corrupt run rfl, did⟩

end

/-- A worker's refill after the body of TXCOMP left `s`: TXPROD of the offer, from the state that TXCOMP leaves with its
`Result` taken back, or nothing where the lane is free (R256, R262). -/
theorem workRefill_ends {s u : State} {f : LaneField} {n : Lane} (ha : s.attached = true)
    (hn : laneOf s.cfg f = some n) (hu : quietPart u = quietPart (dropStream (boundary s))) :
    ((s.chan .tx n).slot = .free →
      finished (.work .tx f) ((workRefill n).run s) = .next (answeredOnly u (.work .tx f) .ok none)) ∧
    ((s.chan .tx n).slot.isOwned = true →
      (∀ v, exec (.txprod f (nextStream s).1 (nextStream s).2) u = .next v →
        finished (.work .tx f) ((workRefill n).run s) = .next (relabelled v (.work .tx f) okRet)) ∧
      (∀ e, exec (.txprod f (nextStream s).1 (nextStream s).2) u = .fault e →
        finished (.work .tx f) ((workRefill n).run s) = .fault e)) := by
  have produce := tame_txprodBody (nextStream s).1 (nextStream s).2 n
  have attached : u.attached = true := by rw [quiet_attached hu]; simpa using ha
  have lane : laneOf u.cfg f = some n := by rw [quiet_cfg hu]; simpa using hn
  refine ⟨fun free => ?_, fun owned => ?_⟩
  · have answer : finished (.work .tx f) ((workRefill n).run s) =
        finished (.work .tx f) (.ok okRet (beginCommand (.work .tx f) u)) := by
      rw [workRefill_free free]
      exact finished_congr (x := .done okRet) trivial hu.symm
    rw [answer, finished_ok, endCommand_answeredOnly]
    rfl
  · rw [workRefill_owned owned, exec_lane_body (body := txprodBody (nextStream s).1 (nextStream s).2) rfl attached lane
      produce]
    rw [finished_congr (produce.bind fun _ => tame_done okRet) hu.symm, run_bind]
    refine ⟨fun v h => ?_, fun e h => ?_⟩
    · obtain ⟨r, t, run, rfl⟩ := finished_next h
      rw [run, relabelled_endCommand]
      rfl
    · obtain ⟨t, run⟩ := finished_fault h
      rw [run]
      rfl

/-- Settles O48: both commands end the same body; the worker's goes on with the refill. -/
theorem workIsItsJob : Obligations.WorkIsItsJob := by
  intro s d f n ha hn work begun
  have attached : begun.attached = true := (jobBegun_attached s d n).trans ha
  have lane : laneOf begun.cfg f = some n := (congrArg (laneOf · f) (jobBegun_cfg s d n)).trans hn
  have job := exec_work ha hn work
  refine ⟨?_, ?_, fun owner cb v started hal slot hv corrupt => ?_⟩
  · rintro rfl
    rw [job, exec_lane_body rfl attached lane (tame_rxdrainBody n)]
    refine ⟨fun t h => ?_, fun e h => ?_⟩
    · obtain ⟨r, u, run, rfl⟩ := finished_next h
      refine ⟨r, endCommand_last .., ?_⟩
      rw [relabelled_endCommand]
      exact congrArg (finished (.work .rx f)) run
    · obtain ⟨u, run⟩ := finished_fault h
      exact congrArg (finished (.work .rx f)) run
  · rintro rfl
    rw [job, exec_lane_body rfl attached lane (tame_txcompBody n)]
    refine ⟨fun t h => ?_, fun e h => ?_⟩
    · obtain ⟨r, u, run, rfl⟩ := finished_next h
      obtain ⟨cfg, attachedU, slotU⟩ := txcompBody_kept n run
      refine ⟨r, endCommand_last .., fun corrupt => ?_, fun completed => ?_⟩
      · rw [relabelled_endCommand]
        exact congrArg (finished (.work .tx f)) (workTx_corrupt run corrupt)
      · have refill : (workJob n .tx).run (jobBegun s .tx n) = (workRefill n).run u := workTx_refill run completed
        rw [refill]
        have slotU : (u.chan .tx n).slot = (s.chan .tx n).slot := by
          rw [slotU, show begun.chan .tx n = _ from jobBegun_chan s .tx n]
        have offer : nextStream (endCommand (.txcomp f) r (boundary u)) = nextStream u :=
          nextStream_congr (boundary_draws u)
        rw [offer, ← slotU]
        refine workRefill_ends (attachedU.trans attached) (by rwa [cfg]) ?_
        exact congrArg dropStream (quietPart_endCommand_back (.txcomp f) r (boundary u))
    · obtain ⟨u, run⟩ := finished_fault h
      exact congrArg (finished (.work .tx f)) (workTx_stops run)
  · subst hv
    obtain ⟨t, run, did⟩ := workJob_corrupt (laneOf_hasLane hn) hal slot started corrupt
    refine ⟨_, by rw [job, run, finished_ok]; rfl, did.worked.ended _⟩

end Sys2Proof.Machine
end

section
/-! TXPROD (43_ring_protocol R255, R257): the copied bytes stand in the ring, and no receive agent stores there
(20_memory R63). -/

namespace Sys2Proof.Machine

/-! ### A transmit ring while lane agents and the control unit move -/

/-- The transmit ring at `a` overlaps no receive ring, and the receive agents store into the receive rings. -/
structure TxRing (a : Word) (s : State) : Prop where
  mem : Memory.wf s.mem
  base : ∀ m : Lane, s.cfg.hasLane m = true → s.rx.base[m.val] = s.cfg.rxBufPhys[m.val]
  apart : ∀ m : Lane, s.cfg.hasLane m = true →
    disjoint (ringRegion s.cfg .rx s.cfg.rxBufPhys[m.val]) (ringRegion s.cfg .tx a) = true

/-- From `s` to `t` such a ring stays one, and its bytes stay. -/
structure RingStays (a : Word) (s t : State) : Prop where
  cfg : t.cfg = s.cfg
  ring : TxRing a s → TxRing a t
  bytes : TxRing a s → ∀ i < cap s.cfg .tx, memRead t.mem (a.toNat + i) = memRead s.mem (a.toNat + i)

section
variable {a : Word} {s t u : State}

theorem RingStays.trans (h : RingStays a s t) (k : RingStays a t u) : RingStays a s u where
  cfg := k.cfg.trans h.cfg
  ring r := k.ring (h.ring r)
  bytes r i hi := (k.bytes (h.ring r) i (by rwa [h.cfg])).trans (h.bytes r i hi)

theorem RingStays.of_same (cfg : t.cfg = s.cfg) (base : t.rx.base = s.rx.base) (mem : t.mem = s.mem) :
    RingStays a s t where
  cfg := cfg
  ring := fun ⟨wf, based, apart⟩ => ⟨by rwa [mem], by rwa [cfg, base], by rwa [cfg]⟩
  bytes _ i _ := by rw [mem]

/-- The receive byte step stores into its own ring; no other lane agent stores (R162, R164). -/
theorem laneStep_ringStays (a : Word) (s : State) (l : LaneStep) : RingStays a s (laneStep s l) := by
  have frame := laneStep_frame s l
  have base : (laneStep s l).rx.base = s.rx.base := frame.base .rx
  have keeps (r : TxRing a s) : TxRing a (laneStep s l) :=
    ⟨frame.mem r.mem, by rw [frame.cfg, base]; exact r.base, by rw [frame.cfg]; exact r.apart⟩
  cases l with
  | rxByte m b =>
    by_cases en : rxByteEnabled s m = true
    · refine ⟨frame.cfg, keeps, fun r i hi => ?_⟩
      obtain ⟨-, inRange, -⟩ := rxByteEnabled_iff.mp en
      have lane := rxByteEnabled_hasLane en
      exact (memRead_rxByteStep en r.mem (r.base m lane) b _).trans
        (if_neg (address_ne (r.apart m lane) inRange hi).symm)
    · rw [laneStep, rxByteStep_disabled en]
      exact .of_same rfl rfl rfl
  | txByte m => exact .of_same frame.cfg base (by simp only [laneStep, txByteStep]; split <;> rfl)
  | status d m => exact .of_same frame.cfg base (by simp only [laneStep, statusStep]; cases d <;> split <;> rfl)
  | corrupt d m v => exact .of_same frame.cfg base (by simp only [laneStep, corruptStep]; split <;> simp)

theorem laneSteps_ringStays (a : Word) (l : List LaneStep) : ∀ s, RingStays a s (laneSteps s l) := by
  induction l with
  | nil => exact fun _ => .of_same rfl rfl rfl
  | cons x l ih => exact fun s => (laneStep_ringStays a s x).trans (ih _)

theorem boundary_ringStays (a : Word) (s : State) : RingStays a s (boundary s) := by
  have agents : RingStays a s (interleave s) := by
    unfold interleave
    split
    · exact .of_same rfl rfl rfl
    · rename_i l rest _
      have slot : RingStays a s { s with sched := rest } := .of_same rfl rfl rfl
      exact slot.trans (laneSteps_ringStays a l _)
  exact agents.trans (.of_same rfl rfl rfl)

/-- A piece that stores nothing and leaves the receive bases keeps the ring. -/
theorem storeless_ringStays {α : Type} {x : Op α} {r : α} (storeless : x.storeless) (unmoved : x.unmoved)
    (e : x.run s = .ok r t) : RingStays a s t := by
  have steps : x.each s.cfg (RingStays a) := each_mono (each_and (unmoved s.cfg) (storeless s.cfg))
    fun _ _ ⟨⟨cfg, _, base⟩, mem⟩ => .of_same cfg base mem
  have stays := each_run steps (fun _ => .of_same rfl rfl rfl) .trans (boundary_ringStays a) (fun k => k.cfg) s rfl
  rwa [e] at stays

end

/-! ### The copied bytes -/

section
variable {s t : State} {n : Lane} {data : List Byte}

/-- Where a ring keeps the byte `p` past `start`. -/
def txCell (s : State) (n : Lane) (start p : Nat) : Nat :=
  ringAddress s .tx n (ringAdd (ringMask s.cfg .tx) start p)

theorem ringAdd_inj {c : Params} {d : Dir} {i p q : Nat} (hi : i < cap c d) (hp : p < cap c d) (hq : q < cap c d)
    (h : ringAdd (ringMask c d) i p = ringAdd (ringMask c d) i q) : p = q := by
  rw [ringAdd_cases c d hi hp, ringAdd_cases c d hi hq] at h
  split_ifs at h <;> omega

/-- A byte put at `start ⊕ j` stands there, and the others stay. -/
theorem writeRingByte_stands {start j : Nat} (ring : TxRing (s.buf .tx n) s)
    (top : (s.buf .tx n).toNat + cap s.cfg .tx ≤ 2 ^ 32) (hstart : start < cap s.cfg .tx) (hj : j < cap s.cfg .tx)
    {b : Byte} (e : (writeRingByte .tx n (ringAdd (ringMask s.cfg .tx) start j) b).run s = .ok () t) :
    t.cfg = s.cfg ∧ t.buf .tx n = s.buf .tx n ∧ TxRing (s.buf .tx n) t ∧
      ∀ p < cap s.cfg .tx, memRead t.mem (txCell s n start p) =
        if p = j then b else memRead s.mem (txCell s n start p) := by
  have below : txCell s n start j < 2 ^ 32 := ringAddress_lt top start j
  have agents := boundary_ringStays (s.buf .tx n) s
  obtain ⟨wf, base, apart⟩ := agents.ring ring
  rw [writeRingByte_run below] at e
  cases e
  refine ⟨by simp, by simp, ⟨memWf_memWrite wf below _, base, apart⟩, fun p hp => ?_⟩
  rw [setMem_mem, memRead_memWrite wf]
  by_cases hpj : p = j
  · subst hpj
    simp [txCell]
  · have elsewhere : txCell s n start p ≠ ringAddress s .tx n (ringAdd (ringMask s.cfg .tx) start j) :=
      fun same => hpj (ringAdd_inj hstart hp hj (Nat.add_left_cancel same))
    rw [if_neg elsewhere, if_neg hpj]
    exact agents.bytes ring _ (ringAdd_lt ..)

/-- The bytes put at `start ⊕ j` and on stand there at the end, and those put before stay. -/
theorem writeRing_stands {start : Nat} (k : Nat) : ∀ (j : Nat) (s t : State), TxRing (s.buf .tx n) s →
    (s.buf .tx n).toNat + cap s.cfg .tx ≤ 2 ^ 32 → start < cap s.cfg .tx → j + k ≤ cap s.cfg .tx →
    (writeRing .tx n (ringMask s.cfg .tx) data start j k).run s = .ok () t →
    t.cfg = s.cfg ∧ TxRing (s.buf .tx n) t ∧
      (∀ p < j, memRead t.mem (txCell s n start p) = memRead s.mem (txCell s n start p)) ∧
      (∀ p, j ≤ p → p < j + k → memRead t.mem (txCell s n start p) = streamByte data p) := by
  induction k with
  | zero =>
    intro j s t ring _ _ _ e
    cases e
    exact ⟨rfl, ring, fun _ _ => rfl, fun p hp hq => absurd hq (by omega)⟩
  | succ k ih =>
    intro j s t ring top hstart hj e
    obtain ⟨_, u, first, rest⟩ := run_bind_ok.mp e
    obtain ⟨cfg, buf, ring', stands⟩ := writeRingByte_stands ring top hstart (by omega) first
    have cell (p : Nat) : txCell u n start p = txCell s n start p := by simp only [txCell, ringAddress, buf, cfg]
    rw [← cfg] at rest top hstart
    rw [← buf] at ring' top
    obtain ⟨cfg', ring'', before, after⟩ := ih (j + 1) u t ring' top hstart (by rw [cfg]; omega) rest
    simp only [cell] at before after
    refine ⟨cfg'.trans cfg, buf ▸ ring'', fun p hp => ?_, fun p hp hq => ?_⟩
    · rw [before p (by omega), stands p (by omega), if_neg (by omega)]
    · obtain rfl | hp := Nat.eq_or_lt_of_le hp
      · rw [before j (by omega), stands j (by omega), if_pos rfl]
      · exact after p hp (by omega)

/-- The history grew, and memory ends as `m` unless a received byte is among the new events. -/
def StoredOnly (m : Memory) (s t : State) : Prop :=
  ∃ es, t.hist = s.hist ++ es ∧ ((∀ n b, Event.lineRx n b ∉ es) → t.mem = m)

theorem StoredOnly.then {m : Memory} {u : State} (h : StoredOnly m s t) (k : ReceivedOnly t u) : StoredOnly m s u := by
  obtain ⟨es, hist, mem⟩ := h
  obtain ⟨es', hist', mem'⟩ := k
  refine ⟨es ++ es', by rw [hist', hist, List.append_assoc], fun none => ?_⟩
  rw [mem' fun m b h => none m b (List.mem_append_right _ h), mem fun m b h => none m b (List.mem_append_left _ h)]

/-- But for received bytes, memory holds the bytes put there and is as before elsewhere. -/
theorem writeRing_storedOnly {d : Dir} {start : Nat} (k : Nat) : ∀ (j : Nat) (s t : State),
    (s.buf d n).toNat + cap s.cfg d ≤ 2 ^ 32 →
    (writeRing d n (ringMask s.cfg d) data start j k).run s = .ok () t →
    StoredOnly (ringFilledFrom s d n start data j k) s t := by
  induction k with
  | zero =>
    intro j s t _ e
    cases e
    exact ⟨[], by simp, fun _ => rfl⟩
  | succ k ih =>
    intro j s t top e
    obtain ⟨_, u, first, rest⟩ := run_bind_ok.mp e
    rw [writeRingByte_run (ringAddress_lt top start j)] at first
    cases first
    obtain ⟨es, hist, mem⟩ := boundary_receivedOnly s
    obtain ⟨es', hist', mem'⟩ := ih (j + 1) ((boundary s).setMem _) t (by simpa using top) (by simpa using rest)
    refine ⟨es ++ es', by rw [hist', setMem_hist, hist, List.append_assoc], fun none => ?_⟩
    rw [mem' fun m b h => none m b (List.mem_append_right _ h), ringFilledFrom_succ,
      ← mem fun m b h => none m b (List.mem_append_left _ h)]
    simp [ringFilledFrom, ringAddress]

end

/-! ### TXPROD (R255) -/

section
variable {s t : State} {n : Lane} {owner : Owner} {cb : Callback} {data : List Byte} {count k : Nat} {x : Ret}

/-- What TXPROD does once the bytes are copied. -/
def afterCopy (c : Params) (n : Lane) (entry : Chan) (count k : Nat) : Op Ret := letI := opMonad; do
  updateChan .tx n fun e => { e with head := ringAdd (ringMask c .tx) entry.head k }
  st32 (.sw .tx n) (toWord (ringAdd (ringMask c .tx) entry.head k))
  opWhen (decide (0 < k ∧ entry.run = .idle)) (triggerIdleTx n)
  wakeWriter n (count - k) c.lowWater
  rescheduleRefill c n count k
  pure (okValue k)

theorem refillBytes_eq (c : Params) (n : Lane) (entry : Chan) (count k : Nat) (data : List Byte) :
    refillBytes c n entry count k data = (writeRing .tx n (ringMask c .tx) data entry.head 0 k).bind fun _ =>
      afterCopy c n entry count k := rfl

theorem storeless_triggerIdleTx (n : Lane) : (triggerIdleTx n).storeless :=
  storeless_lookChan fun _ => storeless_bind (storeless_pulse _ _) fun _ => storeless_bind (storeless_st32 _ _) fun _ =>
    storeless_bind (storeless_st32 _ _) fun _ => storeless_bind (storeless_setEn _ _) fun _ =>
      storeless_updateChan _ _ _

theorem unmoved_triggerIdleTx (n : Lane) : (triggerIdleTx n).unmoved :=
  unmoved_lookChan fun _ => unmoved_bind (unmoved_pulse n .tx) fun _ => unmoved_bind (unmoved_st32 (by simp) _) fun _ =>
    unmoved_bind (unmoved_st32 (by simp) _) fun _ => unmoved_bind (unmoved_params fun _ =>
      unmoved_bind (unmoved_ld32 _) fun _ => unmoved_st32 (by simp) _) fun _ => unmoved_updateChan _ _ _

theorem storeless_afterCopy (c : Params) (n : Lane) (entry : Chan) (count k : Nat) :
    (afterCopy c n entry count k).storeless :=
  storeless_bind (storeless_updateChan _ _ _) fun _ => storeless_bind (storeless_st32 _ _) fun _ =>
    storeless_bind (storeless_opWhen _ (storeless_triggerIdleTx n)) fun _ =>
      storeless_bind (storeless_opWhen _ (storeless_emitOwned _ _ _)) fun _ =>
        storeless_bind (storeless_lookChan fun _ => storeless_opWhen _ (storeless_updateChan _ _ _)) fun _ =>
          storeless_done _

theorem unmoved_afterCopy (c : Params) (n : Lane) (entry : Chan) (count k : Nat) :
    (afterCopy c n entry count k).unmoved :=
  unmoved_bind (unmoved_updateChan _ _ _) fun _ => unmoved_bind (unmoved_st32 (by simp) _) fun _ =>
    unmoved_bind (unmoved_opWhen _ (unmoved_triggerIdleTx n)) fun _ =>
      unmoved_bind (unmoved_opWhen _ (unmoved_emitOwned _ _ _)) fun _ =>
        unmoved_bind (unmoved_lookChan fun _ => unmoved_opWhen _ (unmoved_updateChan _ _ _)) fun _ => unmoved_done _

theorem effects_afterCopy (c : Params) (n : Lane) (entry : Chan) (count k : Nat) :
    (afterCopy c n entry count k).effects c :=
  each_bind (effects_updateChan _ fun _ _ tail => ⟨ringAdd_lt c .tx _ _, tail⟩) fun _ =>
    each_bind (effects_st32 _ _) fun _ => each_bind (each_opWhen fun _ => effects_triggerIdleTx n) fun _ =>
      each_bind (each_opWhen fun _ => effects_emitOwned _ _ _) fun _ =>
        each_bind (each_lookChan fun _ => each_opWhen fun _ => effects_setWork _ _) fun _ => each_done _

theorem txprodBody_owned (slot : (s.chan .tx n).slot = .owned owner cb) : (txprodBody count data n).run s =
    (refillBytes s.cfg n (s.chan .tx n) count (refillCount s.cfg (s.chan .tx n) count) data).run s := by
  simp [txprodBody, slot, Slot.isOwned]

/-- But for received bytes, memory ends as TXPROD fills the ring. -/
theorem refillBytes_storedOnly (top : (s.buf .tx n).toNat + cap s.cfg .tx ≤ 2 ^ 32)
    (e : (refillBytes s.cfg n (s.chan .tx n) count k data).run s = .ok x t) :
    StoredOnly (refilled s n count data k).mem s t := by
  rw [refillBytes_eq] at e
  obtain ⟨_, u, copy, rest⟩ := run_bind_ok.mp e
  have stored := writeRing_storedOnly k 0 s u top copy
  have cfg : u.cfg = s.cfg := (effects_kept_ok (fun _ => effects_writeRing _ _ _ _ _ _ _) copy).cfg
  have received := storeless_run (s := u) (storeless_afterCopy s.cfg n (s.chan .tx n) count k)
    (by rw [cfg]; exact effects_afterCopy ..)
  rw [rest] at received
  have filled : (refilled s n count data k).mem = ringFilledFrom s .tx n (s.chan .tx n).head data 0 k := by
    rw [refilled_mem]
    simp [ringFilled, ringFilledFrom]
  rw [filled]
  exact stored.then received

/-- In a ring that overlaps no receive ring the copied bytes stand at the end. -/
theorem refillBytes_stands (ring : TxRing (s.buf .tx n) s) (top : (s.buf .tx n).toNat + cap s.cfg .tx ≤ 2 ^ 32)
    (head : (s.chan .tx n).head < cap s.cfg .tx) (hk : k ≤ cap s.cfg .tx)
    (e : (refillBytes s.cfg n (s.chan .tx n) count k data).run s = .ok x t) :
    TxRing (s.buf .tx n) t ∧ t.cfg = s.cfg ∧
      ∀ i < k, memRead t.mem (txCell s n (s.chan .tx n).head i) = streamByte data i := by
  rw [refillBytes_eq] at e
  obtain ⟨_, u, copy, rest⟩ := run_bind_ok.mp e
  obtain ⟨cfg, ring', -, stands⟩ := writeRing_stands k 0 s u ring top head (by omega) copy
  have stays : RingStays (s.buf .tx n) u t := storeless_ringStays (storeless_afterCopy _ _ _ _ _)
    (unmoved_afterCopy _ _ _ _ _) rest
  refine ⟨stays.ring ring', stays.cfg.trans cfg, fun i hi => ?_⟩
  rw [← stands i (Nat.zero_le i) (by omega)]
  exact stays.bytes ring' _ (by rw [cfg]; exact ringAdd_lt ..)

/-- The transmit ring of an owned lane as commands leave it (R49, R63). -/
theorem CommandInv.txRing (h : CommandInv s) (hn : s.cfg.hasLane n = true)
    (owned : (s.chan .tx n).slot.isOwned = true) : TxRing (s.buf .tx n) s where
  mem := h.core.parts.memCanonical
  base m hm := (h.lane .rx m hm).baseIsBuffer
  apart m hm := by
    obtain ⟨apart, -⟩ := h.txRings n hn owned
    exact disjoint_symm (List.all_eq_true.mp apart _ (List.mem_cons_of_mem _
      (List.mem_map_of_mem (mem_lanes.mpr hm))))

end

/-- Settles O44: what TXPROD leaves is `refill_run`'s; the copy is its only store. -/
theorem txprodRefillsRing : Obligations.TxprodRefillsRing := by
  intro s f n owner cb count data ha hn slot head tail top disabled wf k cell
  have lane := laneOf_hasLane hn
  have small : k < cap s.cfg .tx := by
    have : ringMask s.cfg .tx < cap s.cfg .tx := ringMask_lt_cap ..
    simp only [k, cap]
    omega
  obtain ⟨-, stands, others⟩ := ringFilled_reads s .tx n (s.chan .tx n).head data top head wf k small
  rw [← refilled_mem s n count data k] at stands others
  refine ⟨?_, stands, others⟩
  obtain ⟨t, run, did⟩ := refill_run n owner cb count k data (beginCommand (.txprod f count data) s) lane slot
    tail top disabled
  have body : (txprodBody count data n).run (beginCommand (.txprod f count data) s) = .ok (okValue k) t :=
    (txprodBody_owned (s := beginCommand (.txprod f count data) s) slot).trans run
  have stored := refillBytes_storedOnly (s := beginCommand (.txprod f count data) s) top run
  refine ⟨_, by rw [exec_lane rfl ha hn, body, finished_ok], (did.congr (by simp)).ended _, fun es hist none => ?_,
    fun inv i hi => ?_⟩
  · obtain ⟨es', hist', mem⟩ := stored.then (boundary_receivedOnly t)
    have ended : (boundary t).hist ++ [.result (.txprod f count data) .ok (some k)] = s.hist ++ es := hist
    rw [hist', List.append_assoc] at ended
    obtain rfl := List.append_cancel_left ended
    rw [endCommand_mem, mem fun m b h => none m b (List.mem_append_left _ h), refilled_mem, refilled_mem]
    rfl
  · obtain ⟨wf, base, apart⟩ := inv.txRing lane (by rw [slot]; rfl)
    obtain ⟨ring, cfg, stands⟩ := refillBytes_stands (s := beginCommand (.txprod f count data) s) ⟨wf, base, apart⟩
      top head small.le run
    have stays := (boundary_ringStays (s.buf .tx n) t).bytes ring _
      (by rw [cfg]; exact ringAdd_lt s.cfg .tx (s.chan .tx n).head i)
    rw [endCommand_mem]
    simp only [cell, ← ringAdd_eq_mod]
    exact stays.trans (stands i hi)

end Sys2Proof.Machine
end

section
/-! WORK with no lane agent scheduled (43_ring_protocol R262): its job's own laws, on the state with the flag
cleared. -/

namespace Sys2Proof.Machine

section
variable {s t : State} {d : Dir} {f : LaneField} {n : Lane} {owner : Owner} {cb : Callback} {i j : Instr} {q r : Ret}

/-- What a renamed `Result` leaves, the answer read off the history. -/
theorem relabelled_of_last (last : (endCommand i q s).hist.getLast? = some (.result i r.code r.value)) :
    r = q ∧ relabelled (endCommand i q s) j r = endCommand j q s := by
  rw [endCommand_last] at last
  obtain ⟨code, value⟩ := r
  simp only [Option.some.injEq, Event.result.injEq, true_and] at last
  obtain ⟨rfl, rfl⟩ := last
  exact ⟨rfl, relabelled_endCommand ..⟩

/-- The lane with its work flag cleared. -/
def unflagged (s : State) (d : Dir) (n : Lane) : State := s.setChan d n { s.chan d n with work := false }

theorem unflagged_chan (s : State) (d : Dir) (n : Lane) :
    (unflagged s d n).chan d n = { s.chan d n with work := false } := setChan_chan_same ..

theorem jobBegun_quiet (hs : s.sched = []) : jobBegun s d n = unflagged s d n := by
  rw [jobBegun, interleave_quiet hs, unflagged]

theorem drained_unflagged (s : State) (n : Lane) (h acc : Nat) :
    drained (unflagged s .rx n) n h acc false = drained s n h acc false := by
  simp [drained, unflagged]

theorem completed_unflagged (s : State) (n : Lane) (r : Nat) :
    completed (unflagged s .tx n) n r false = completed s n r false := by
  by_cases caughtUp : (s.chan .tx n).head = r <;> simp [completed, unflagged, caughtUp]

theorem published_attached (s : State) (d : Dir) (n : Lane) (k : Nat) :
    (published s d n k).attached = s.attached := by
  unfold published; split <;> simp

theorem published_draws (s : State) (d : Dir) (n : Lane) (k : Nat) : (published s d n k).draws = s.draws := by
  unfold published; split <;> simp

/-- TXCOMP leaves alone whatever is neither a channel-table entry nor a register. -/
theorem completed_kept (s : State) (n : Lane) (r : Nat) (w : Bool) : (completed s n r w).cfg = s.cfg ∧
    (completed s n r w).attached = s.attached ∧ (completed s n r w).hist = s.hist ∧
    (completed s n r w).sched = s.sched ∧ (completed s n r w).draws = s.draws ∧
    (completed s n r w).buf .tx n = s.buf .tx n := by
  unfold completed
  split <;> simp [published_attached, published_draws]

/-- TXPROD of an owned lane, memory left aside (R255). -/
theorem exec_txprod {count : Nat} {data : List Byte} (ha : s.attached = true) (hn : laneOf s.cfg f = some n)
    (slot : (s.chan .tx n).slot = .owned owner cb) (tail : (s.chan .tx n).tail < cap s.cfg .tx)
    (top : (s.buf .tx n).toNat + cap s.cfg .tx ≤ 2 ^ 32)
    (disabled : (s.chan .tx n).run = .idle → laneEnabled s .tx n = false) :
    let k := refillCount s.cfg (s.chan .tx n) count
    ∃ t, exec (.txprod f count data) s = .next t ∧ Ended (.txprod f count data) (okValue k)
      (wakeEvents s owner n (count - k)) s (refilled s n count data k) t := by
  intro k
  refine exec_lane_ended rfl ha hn ?_
  obtain ⟨t, run, did⟩ := refill_run n owner cb count k data (beginCommand (.txprod f count data) s)
    (laneOf_hasLane hn) slot tail top disabled
  exact ⟨t, (txprodBody_owned (s := beginCommand (.txprod f count data) s) slot).trans run, did.congr (by simp)⟩

/-- A receive worker with bytes to read, quiet: the drained state (R245, R262). -/
theorem work_rx_quiet {h : Word} (ha : s.attached = true) (hn : laneOf s.cfg f = some n) (quiet : s.sched = [])
    (work : (s.chan .rx n).work = true) (started : (s.chan .rx n).run ≠ .idle)
    (slot : (s.chan .rx n).slot = .owned owner cb) (tail : (s.chan .rx n).tail < cap s.cfg .rx)
    (top : (s.buf .rx n).toNat + cap s.cfg .rx ≤ 2 ^ 32) (hw : s.rx.hw[n.val] = h) (hlt : h.toNat < cap s.cfg .rx)
    (some : h.toNat ≠ (s.chan .rx n).tail) :
    let acc := nextAccepted s (ringSub (ringMask s.cfg .rx) h.toNat (s.chan .rx n).tail)
    exec (.work .rx f) s = .next (endCommand (.work .rx f) (okValue acc) ((drained s n h.toNat acc false).setHist
      (s.hist ++ drainEvents owner n (ringBytes s .rx n (s.chan .rx n).tail acc)))) := by
  intro acc
  have entry := unflagged_chan s .rx n
  have still : (unflagged s .rx n).sched = [] := quiet
  have drawn : nextAccepted (unflagged s .rx n) (ringSub (ringMask (unflagged s .rx n).cfg .rx) h.toNat
      ((unflagged s .rx n).chan .rx n).tail) = acc := by rw [entry]; rfl
  obtain ⟨t, w, bytes, run, ended, -, those, -, -, flag, -⟩ := rxdrainDeliversAccepted (unflagged s .rx n) f n owner cb
    h ha hn (by rwa [entry]) (by rwa [entry]) (by rwa [entry]) top (by rw [interleave_quiet still]; exact hw) hlt
    (by rwa [entry])
  obtain rfl : w = false := by rw [flag still, entry]
  have left := ended.quiet still
  rw [those still, drawn, drained_unflagged, entry] at left
  have job := (workIsItsJob s .rx f n ha hn work).1 rfl
  rw [show (interleave s).setChan .rx n _ = unflagged s .rx n from jobBegun_quiet quiet] at job
  obtain ⟨r, last, done⟩ := job.1 t run
  rw [done]
  subst left
  exact congrArg Host.Outcome.next (relabelled_of_last last).2

/-- A transmit worker, quiet: the completed state, the draw taken, the refilled state (R255, R258, R262). -/
theorem work_tx_quiet {r : Word} (ha : s.attached = true) (hn : laneOf s.cfg f = some n) (quiet : s.sched = [])
    (work : (s.chan .tx n).work = true) (started : (s.chan .tx n).run ≠ .idle)
    (slot : (s.chan .tx n).slot = .owned owner cb) (head : (s.chan .tx n).head < cap s.cfg .tx)
    (top : (s.buf .tx n).toNat + cap s.cfg .tx ≤ 2 ^ 32) (hw : s.tx.hw[n.val] = r) (hr : r.toNat < cap s.cfg .tx)
    (path : ringSub (ringMask s.cfg .tx) r.toNat (s.chan .tx n).tail ≤ pendingCount s .tx n) :
    let offer := nextStream s
    let u := dropStream (completed s n r.toNat false)
    let k := refillCount u.cfg (u.chan .tx n) offer.1
    exec (.work .tx f) s = .next (endCommand (.work .tx f) okRet
      ((refilled u n offer.1 offer.2 k).setHist (s.hist ++ wakeEvents s owner n (offer.1 - k)))) := by
  intro offer u k
  have entry := unflagged_chan s .tx n
  have still : (unflagged s .tx n).sched = [] := quiet
  obtain ⟨t, w, run, ended, -, flag, -⟩ := (txcompSynchronises (unflagged s .tx n) f n r ha hn).2 (by rwa [entry])
    (by rwa [entry]) (by rw [interleave_quiet still]; exact hw) hr (by rw [pendingCount, entry]; exact path)
  obtain rfl : w = false := by rw [flag still, entry]
  have left := ended.quiet still
  rw [completed_unflagged, List.append_nil] at left
  have job := (workIsItsJob s .tx f n ha hn work).2.1 rfl
  rw [show (interleave s).setChan .tx n _ = unflagged s .tx n from jobBegun_quiet quiet] at job
  obtain ⟨q, last, -, refill⟩ := job.1 t run
  subst left
  obtain ⟨rfl, -⟩ := relabelled_of_last (j := .work .tx f) last
  obtain ⟨cfg, attached, hist, sched, draws, buf⟩ := completed_kept s n r.toNat false
  have drawn : nextStream (endCommand (.txcomp f) (okValue r.toNat) ((completed s n r.toNat false).setHist
      (unflagged s .tx n).hist)) = offer := nextStream_congr draws
  have refill := (refill (by simp [okValue])).2 (by rw [slot]; rfl)
  rw [drawn] at refill
  generalize hv : dropStream ((endCommand (.txcomp f) (okValue r.toNat) ((completed s n r.toNat false).setHist
      (unflagged s .tx n).hist)).setHist _) = v at refill
  have same : quietPart v = quietPart u := by
    have back := quietPart_endCommand_back (.txcomp f) (okValue r.toNat)
      ((completed s n r.toNat false).setHist (unflagged s .tx n).hist)
    rw [show (unflagged s .tx n).hist = (completed s n r.toNat false).hist from hist.symm, setHist_self] at back hv
    rw [← hv]
    exact congrArg dropStream back
  have left : v.chan .tx n = { s.chan .tx n with tail := r.toNat, work := false } :=
    (quiet_chan same .tx n).trans (by simp [u, completed])
  have cfg : v.cfg = s.cfg := (quiet_cfg same).trans cfg
  have buf : v.buf .tx n = s.buf .tx n := (quiet_buf same .tx n).trans buf
  obtain ⟨t, run, ended⟩ := exec_txprod (s := v) (count := offer.1) (data := offer.2) (f := f) (n := n)
    (owner := owner) (cb := cb) ((quiet_attached same).trans (attached.trans ha)) (by rwa [cfg]) (by rw [left]; exact slot)
    (by rw [left, cfg]; exact hr) (by rwa [buf, cfg]) fun idle => absurd (by rwa [left] at idle) started
  rw [refill.1 t run, ended.quiet ((quiet_sched same).trans (sched.trans quiet)), relabelled_endCommand]
  refine congrArg Host.Outcome.next (quietPart_eq_endCommand ?_)
  have count : refillCount v.cfg (v.chan .tx n) offer.1 = k := by rw [quiet_cfg same, quiet_chan same]
  have wakes (m : Nat) : wakeEvents v owner n m = wakeEvents s owner n m := by rw [wakeEvents, cfg, wakeEvents]
  rw [count, wakes, quiet_hist same, quietPart_setHist, quietPart_setHist, quietPart_refilled, quietPart_refilled, same]
  exact congrArg (fun h => State.setHist _ (h ++ _)) hist

end

/-- Settles O47. -/
theorem workRunsTheJob : Obligations.WorkRunsTheJob := by
  intro s d f n ha hn
  refine ⟨fun none => ?_, ?_, ?_⟩
  · refine exec_lane_answered (r := okRet) rfl ha hn ?_
    simp [workBody, none]
  · rintro owner cb h rfl quiet work started slot tail top hw hlt some
    exact work_rx_quiet ha hn quiet work started slot tail top hw hlt some
  · rintro owner cb r rfl quiet work started slot head top hw hr path
    exact work_tx_quiet ha hn quiet work started slot head top hw hr path

end Sys2Proof.Machine
end

section
/-! The state that DISPATCH leaves of one lane that it acknowledges and completes while no lane agent moves
(44_dispatcher R282 to R284). -/

namespace Sys2Proof.Machine

/-! ### States in which nothing happens but what the control unit does -/

/-- No lane-agent step is scheduled, and no command is noted as running. -/
structure Still (s : State) : Prop where
  sched : s.sched = []
  cur : s.cur = none
  seen : s.seen = []

section
variable {s t : State} {d e : Dir} {n m : Lane}

theorem still_quietPart (h : s.sched = []) : Still (quietPart s) := ⟨h, rfl, rfl⟩

theorem quietPart_still (h : Still s) : quietPart s = s := by
  obtain ⟨-, cur, seen⟩ := h
  rw [quietPart, ← cur, ← seen]

theorem Still.setHist (h : Still s) (l : List Event) : Still (s.setHist l) := ⟨h.sched, h.cur, h.seen⟩

theorem Still.log (h : Still s) (e : Event) : Still (s.log e) := ⟨h.sched, h.cur, h.seen⟩

/-- A micro-step's boundary changes nothing there. -/
theorem boundary_still (sched : s.sched = []) (cur : s.cur = none) : boundary s = s := by
  have same : s.cur.map (fun c => (c.1, c.2 + 1)) = s.cur := by rw [cur]; rfl
  rw [boundary_quiet sched, advanceCur, same]

/-- What a piece leaves there, its events apart, it leaves exactly. -/
theorem Still.run_did {α : Type} {x : Op α} {a : α} {own : List Event} {u : State} (h : Still s) (tame : x.tame)
    (hu : Still u) (did : ∃ t, x.run s = .ok a t ∧ Did own s u t) : x.run s = .ok a (u.setHist (s.hist ++ own)) := by
  obtain ⟨t, run, did⟩ := did
  have noted : quietPart t = t := by
    have same := tame_run_quietPart tame s
    rw [quietPart_still h, run] at same
    simp only [quietResult, EStateM.Result.ok.injEq, true_and] at same
    exact same.symm
  obtain ⟨quiet, -⟩ := did.quiet h.sched
  rw [run, ← noted, quiet, quietPart_setHist, quietPart_still hu]

/-! ### The STOP sequence and the CorruptPointer path (R201, R242) -/

theorem stopped_setHist (s : State) (h : List Event) (d : Dir) (n : Lane) :
    stopped (s.setHist h) d n = (stopped s d n).setHist h := by cases d <;> rfl

theorem stopped_hist (s : State) (d : Dir) (n : Lane) : (stopped s d n).hist = s.hist := by cases d <;> rfl

theorem stopped_slot (s : State) (d : Dir) (n : Lane) : ((stopped s d n).chan d n).slot = (s.chan d n).slot := by
  rw [stopped_chan]
  cases d <;> rfl

theorem still_stopped (h : Still s) (d : Dir) (n : Lane) : Still (stopped s d n) := by
  obtain ⟨sched, cur, seen⟩ := h
  cases d
  · exact ⟨sched, cur, seen⟩
  · exact ⟨sched, cur, seen⟩

theorem Still.stopSequence_run (h : Still s) (hn : s.cfg.hasLane n = true)
    (hal : aligned s.cfg (s.buf d n) = true) :
    (stopSequence d n).run s = .ok () (stopped s d n) := by
  rw [h.run_did (tame_stopSequence d n) (still_stopped h d n) (Machine.stopSequence_run d n s hn hal),
    List.append_nil, ← stopped_hist s d n, setHist_self]

theorem emitOwned_free {f : Owner → Event} (slot : (s.chan d n).slot = .free) :
    (emitOwned d n f).run s = .ok () s := by
  simp [emitOwned, slot]

theorem Still.corruptPath_free (h : Still s) (hn : s.cfg.hasLane n = true)
    (hal : aligned s.cfg (s.buf d n) = true) (slot : (s.chan d n).slot = .free) :
    (corruptPath d n).run s = .ok corruptRet ((stopped s d n).setHist
      (s.hist ++ [.anomaly .corruptPointer (some d) (some n)])) := by
  let a := s.setHist (s.hist ++ [.anomaly .corruptPointer (some d) (some n)])
  have start : (emit (.anomaly .corruptPointer (some d) (some n))).run s = .ok () a := by
    rw [emit_run, boundary_still h.sched h.cur, log_eq_setHist]
  have ha : Still a := ⟨h.sched, h.cur, h.seen⟩
  have stop : (stopSequence d n).run a = .ok () (stopped a d n) :=
    ha.stopSequence_run hn (by rwa [setHist_buf])
  have free : ((stopped a d n).chan d n).slot = .free := by rw [stopped_slot, setHist_chan, slot]
  rw [← stopped_setHist]
  exact run_seq start (run_seq stop (run_seq (emitOwned_free free) rfl))

/-! ### What COMPLETE leaves of a lane (R283, R284) -/

/-- The enable bit of the lane cleared by a read-modify-write, which draws once (30_encoding R104 CLREN). -/
def quieted (s : State) (d : Dir) (n : Lane) : State :=
  (dropReserved s).withEn d (withoutLaneBit s.cfg (s.bank d).en n)

/-- The lane's completion, its events apart: an `Armed` lane in range has its work flag set, one out of range is
stopped, any other is quieted. -/
def completedLane (s : State) (d : Dir) (n : Lane) : State :=
  if corruptCompletion s d n = true then stopped s d n
  else (if enabled s d n = true then s else quieted s d n).setChan d n (completionEntry s d n)

theorem enabled_of_corrupt (h : corruptCompletion s d n = true) : enabled s d n = true := by
  simp only [corruptCompletion, Bool.and_eq_true] at h
  exact h.1

theorem not_corrupt_of_disabled (h : enabled s d n = false) : corruptCompletion s d n = false := by
  simp [corruptCompletion, h]

theorem completedLane_corrupt (h : corruptCompletion s d n = true) : completedLane s d n = stopped s d n := if_pos h

theorem completedLane_armed (armed : enabled s d n = true) (inRange : corruptCompletion s d n = false) :
    completedLane s d n = s.setChan d n { s.chan d n with work := true } := by
  simp [completedLane, completionEntry, armed, inRange]

theorem completedLane_disabled (h : enabled s d n = false) :
    completedLane s d n = (quieted s d n).setChan d n (resyncedEntry s d n) := by
  simp [completedLane, completionEntry, h, not_corrupt_of_disabled h]

theorem resyncedEntry_of_kept (h : ¬ (d = .rx ∧ (s.chan d n).run = .idle)) : resyncedEntry s d n = s.chan d n :=
  if_neg fun ⟨hd, idle, _⟩ => h ⟨hd, idle⟩

theorem setHist_of_hist {h : List Event} (e : s.hist = h) : s.setHist h = s := e ▸ setHist_self s

/-- An `Armed` lane out of range takes the CorruptPointer path; of a free one there is no owner to tell (log 17). -/
theorem Still.corruptLane_run (h : Still s) (hn : s.cfg.hasLane n = true)
    (hal : aligned s.cfg (s.buf d n) = true) (corrupt : corruptCompletion s d n = true) :
    (corruptLane d n).run s = .ok () ((completedLane s d n).setHist (s.hist ++ completionEvents s d n)) := by
  have armed := enabled_of_corrupt corrupt
  have path : (corruptPath d n).run s =
      .ok corruptRet ((stopped s d n).setHist (s.hist ++ completionEvents s d n)) := by
    cases slot : (s.chan d n).slot with
    | free =>
      simpa [completionEvents, armed, corrupt, slot] using h.corruptPath_free hn hal slot
    | owned owner cb =>
      simpa [completionEvents, armed, corrupt, slot, corruptRet] using
        h.run_did (tame_corruptPath d n) (still_stopped h d n) (corruptPath_run hn hal slot)
  rw [completedLane_corrupt corrupt]
  exact run_seq path rfl

/-- An `Armed` lane in range has its callback invoked; a free one has none (log 17). -/
theorem Still.invokeCallback_run (h : Still s) (armed : enabled s d n = true)
    (inRange : corruptCompletion s d n = false) : (invokeCallback d n (s.bank d).hw[n.val].toNat).run s =
      .ok () ((completedLane s d n).setHist (s.hist ++ completionEvents s d n)) := by
  have read : boundary s = s := boundary_still h.sched h.cur
  rw [completedLane_armed armed inRange]
  cases slot : (s.chan d n).slot with
  | free =>
    have none : completionEvents s d n = [] := by simp [completionEvents, armed, inRange, slot]
    rw [none, List.append_nil, setHist_of_hist (setChan_hist ..)]
    simp [invokeCallback, slot, read]
  | owned owner cb =>
    simp [invokeCallback, slot, boundary_still, h.sched, h.cur, completionEvents, armed, inRange, log_eq_setHist]

theorem Still.resync_run (h : Still s) (idle : (s.chan .rx n).run = .idle) :
    (resync n).run s = .ok () (s.setChan .rx n (resyncedEntry s .rx n)) := by
  by_cases inRange : (s.bank .rx).hw[n.val].toNat < cap s.cfg .rx <;>
    simp [resync, boundary_still h.sched h.cur, resyncedEntry, idle, inRange]

/-- Any other lane is logged and quieted; an `Idle` receive lane in range is resynchronised. -/
theorem Still.defensive_run (h : Still s) (off : enabled s d n = false) :
    (defensive d n).run s = .ok () ((completedLane s d n).setHist (s.hist ++ completionEvents s d n)) := by
  have events : completionEvents s d n = [.anomaly .disabledLaneCompletion (some d) (some n)] := by
    simp [completionEvents, off]
  let q := (quieted s d n).setHist (s.hist ++ completionEvents s d n)
  have hq : Still q := by constructor <;> simp [q, quieted, h.sched, h.cur, h.seen]
  have entry : q.chan d n = s.chan d n := by simp [q, quieted]
  have logged : (defensive d n).run s =
      (opWhen (decide (d = .rx ∧ (s.chan d n).run = .idle)) (resync n)).run q := by
    simp [defensive, boundary_still, h.sched, h.cur, log_eq_setHist, q, quieted, events]
  rw [logged, completedLane_disabled off, ← setChan_setHist]
  by_cases idle : d = .rx ∧ (s.chan d n).run = .idle
  · obtain ⟨rfl, idle⟩ := idle
    have same : resyncedEntry q .rx n = resyncedEntry s .rx n := by simp [resyncedEntry, q, quieted]
    simp only [idle, and_self, decide_true, opWhen_true, hq.resync_run (entry ▸ idle), same, q]
  · have kept : q.setChan d n (s.chan d n) = q := by rw [← entry, setChan_self]
    simp only [idle, decide_false, opWhen_false, run_done, resyncedEntry_of_kept idle]
    exact congrArg _ kept.symm

theorem Still.complete_run (h : Still s) (hn : s.cfg.hasLane n = true)
    (hal : corruptCompletion s d n = true → aligned s.cfg (s.buf d n) = true) :
    (complete d n).run s = .ok () ((completedLane s d n).setHist (s.hist ++ completionEvents s d n)) := by
  cases armed : enabled s d n with
  | false =>
    have off : (s.chan d n).run ≠ .armed := by simpa [enabled] using armed
    simpa [complete, off] using h.defensive_run armed
  | true =>
    have on : (s.chan d n).run = .armed := by simpa [enabled] using armed
    have read : boundary s = s := boundary_still h.sched h.cur
    cases corrupt : corruptCompletion s d n with
    | true =>
      have far : ¬ (s.bank d).hw[n.val].toNat < cap s.cfg d := by
        simpa [corruptCompletion, armed] using corrupt
      simpa [complete, on, completeArmed, read, far] using h.corruptLane_run hn (hal corrupt) corrupt
    | false =>
      have near : (s.bank d).hw[n.val].toNat < cap s.cfg d := by
        simpa [corruptCompletion, armed] using corrupt
      simpa [complete, on, completeArmed, read, near] using h.invokeCallback_run armed corrupt

/-! ### A lane acknowledged, then completed (R282) -/

/-- What DISPATCH makes of one pending lane. -/
def servicedLane (s : State) (d : Dir) (n : Lane) : State :=
  (completedLane (s.withIsr d (writeOneToClear (s.bank d).isr (laneBit n))) d n).setHist
    (s.hist ++ completionEvents s d n)

theorem completionEvents_withIsr (v : Word) :
    completionEvents (s.withIsr d v) d n = completionEvents s d n := by cases d <;> rfl

theorem corruptCompletion_withIsr (v : Word) :
    corruptCompletion (s.withIsr d v) d n = corruptCompletion s d n := by cases d <;> rfl

theorem Still.acknowledge_run (h : Still s) (hn : s.cfg.hasLane n = true)
    (hal : corruptCompletion s d n = true → aligned s.cfg (s.buf d n) = true) :
    (acknowledge d n).run s = .ok () (servicedLane s d n) := by
  let a := s.withIsr d (writeOneToClear (s.bank d).isr (laneBit n))
  have ha : Still a := by constructor <;> simp [a, h.sched, h.cur, h.seen]
  have written : (ack d n).run s = .ok () a := by rw [ack_run, boundary_still h.sched h.cur]
  refine run_seq written ((ha.complete_run (by simpa [a] using hn) ?_).trans ?_)
  · simpa [a, corruptCompletion_withIsr] using hal
  · rw [completionEvents_withIsr, withIsr_hist, servicedLane]

theorem still_servicedLane (h : Still s) (d : Dir) (n : Lane) : Still (servicedLane s d n) := by
  obtain ⟨sched, cur, seen⟩ := h
  refine Still.setHist ?_ _
  unfold completedLane
  split
  · exact still_stopped (by constructor <;> simpa) d n
  · split <;> constructor <;> simpa [quieted]

end

end Sys2Proof.Machine
end

section
/-! What DISPATCH makes of the lanes one after another: each lane's completion is told from its own registers and entry,
and keeps those of the others (44_dispatcher R281, R286). -/

namespace Sys2Proof.Machine

section
variable {s t : State} {d e : Dir} {n m : Lane}

/-! ### What DISPATCH never writes -/

/-- The state less the registers and entries of the lanes, the history, the draws, and which command runs. -/
def bystanders (s : State) : State :=
  { s with
    tx := { Bank.reset with ier := s.tx.ier }
    rx := { Bank.reset with ier := s.rx.ier }
    txMoved := perLane false
    txChan := perLane Chan.reset
    rxChan := perLane Chan.reset
    hist := []
    cur := none
    seen := []
    draws := { reserved := [], accepted := [], stream := [], count := 0 } }

@[simp] theorem bystanders_setHist (s : State) (h : List Event) : bystanders (s.setHist h) = bystanders s := rfl
@[simp] theorem bystanders_withIsr (s : State) (d : Dir) (v : Word) :
    bystanders (s.withIsr d v) = bystanders s := by cases d <;> rfl
@[simp] theorem bystanders_quieted (s : State) (d : Dir) (n : Lane) : bystanders (quieted s d n) = bystanders s := by
  cases d <;> rfl
@[simp] theorem bystanders_setChan (s : State) (d : Dir) (n : Lane) (c : Chan) :
    bystanders (s.setChan d n c) = bystanders s := by cases d <;> rfl
@[simp] theorem bystanders_stopped (s : State) (d : Dir) (n : Lane) : bystanders (stopped s d n) = bystanders s := by
  cases d <;> rfl

theorem bystanders_cfg (h : bystanders t = bystanders s) : t.cfg = s.cfg := by
  have := congrArg State.cfg h
  exact this

theorem bystanders_servicedLane (s : State) (d : Dir) (n : Lane) :
    bystanders (servicedLane s d n) = bystanders s := by
  unfold servicedLane completedLane
  split
  · simp
  · split <;> simp

/-! ### One lane's registers and entry -/

/-- What DISPATCH may write of one lane: its status and enable bits, its pointers and base, its channel-table entry,
`tx_moved` of a transmit lane; and its buffer. -/
structure LaneRegs where
  status : Bool
  enabled : Bool
  hw : Word
  sw : Word
  base : Word
  chan : Chan
  moved : Bool
  buf : Word

/-- Those of lane `(d, n)`. -/
def laneRegs (s : State) (d : Dir) (n : Lane) : LaneRegs where
  status := testLane (s.bank d).isr n
  enabled := laneEnabled s d n
  hw := (s.bank d).hw[n.val]
  sw := (s.bank d).sw[n.val]
  base := (s.bank d).base[n.val]
  chan := s.chan d n
  moved := decide (d = .tx) && s.txMoved[n.val]
  buf := s.buf d n

/-- What the acknowledgement and completion of lane `(d, n)` make of them (R282 to R284). -/
def servicedRegs (s : State) (d : Dir) (n : Lane) : LaneRegs where
  status := false
  enabled := laneEnabled s d n && !(!enabled s d n || corruptCompletion s d n)
  hw := if corruptCompletion s d n = true then 0 else (s.bank d).hw[n.val]
  sw := if corruptCompletion s d n = true then 0 else (s.bank d).sw[n.val]
  base := if corruptCompletion s d n = true then s.buf d n else (s.bank d).base[n.val]
  chan := completionEntry s d n
  moved := decide (d = .tx) && s.txMoved[n.val] && !corruptCompletion s d n
  buf := s.buf d n

/-- The completion of lane `(d, n)` is the same in both states. -/
structure SameCompletion (s t : State) (d : Dir) (n : Lane) : Prop where
  corrupt : corruptCompletion t d n = corruptCompletion s d n
  events : completionEvents t d n = completionEvents s d n
  regs : servicedRegs t d n = servicedRegs s d n

/-- A lane's completion is told from its own registers and entry. -/
theorem completion_congr (cfg : t.cfg = s.cfg) (h : laneRegs t d n = laneRegs s d n) : SameCompletion s t d n := by
  have hw : (t.bank d).hw[n.val] = (s.bank d).hw[n.val] := congrArg LaneRegs.hw h
  have chan : t.chan d n = s.chan d n := congrArg LaneRegs.chan h
  have corrupt : corruptCompletion t d n = corruptCompletion s d n := by
    simp only [corruptCompletion, enabled, chan, hw, cfg]
  refine ⟨corrupt, by unfold completionEvents enabled; rw [corrupt, chan, hw], ?_⟩
  have en : laneEnabled t d n = laneEnabled s d n := congrArg LaneRegs.enabled h
  have sw : (t.bank d).sw[n.val] = (s.bank d).sw[n.val] := congrArg LaneRegs.sw h
  have base : (t.bank d).base[n.val] = (s.bank d).base[n.val] := congrArg LaneRegs.base h
  have moved : (decide (d = .tx) && t.txMoved[n.val]) = (decide (d = .tx) && s.txMoved[n.val]) :=
    congrArg LaneRegs.moved h
  have buf : t.buf d n = s.buf d n := congrArg LaneRegs.buf h
  simp only [servicedRegs, completionEntry, resyncedEntry, enabled, corrupt, chan, hw, cfg, en, sw, base, moved, buf]

/-- The lane is one of those that exist, or its enable bit is clear anyway. -/
theorem testLane_withoutLaneBit_legal {c : Params} {v : Word} (legal : hasReserved c v = false) (n m : Lane) :
    testLane (withoutLaneBit c v n) m = (testLane v m && !decide (m = n)) := by
  rw [testLane_withoutLaneBit, Bool.and_comm (testLane v m)]
  cases hm : c.hasLane m with
  | true => simp
  | false => simp [hasReserved_eq_false.mp legal m hm]

theorem stopped_bank (s : State) (d : Dir) (n : Lane) : (stopped s d n).bank d = { s.bank d with
    en := withoutLaneBit s.cfg (s.bank d).en n, rst := 0, hw := (s.bank d).hw.set n.val 0,
    sw := (s.bank d).sw.set n.val 0, base := (s.bank d).base.set n.val (s.buf d n) } := by
  cases d <;> rfl

theorem stopped_chan_get (s : State) (d e : Dir) (n m : Lane) : (stopped s d n).chan e m =
    if e = d ∧ m = n then { stoppedChan d (s.chan d n) with run := .idle } else s.chan e m := by
  rw [stopped, setChan_chan]
  split
  · rfl
  · cases d <;> cases e <;> rfl

theorem stopped_moved (s : State) (d e : Dir) (n m : Lane) : (decide (e = .tx) && (stopped s d n).txMoved[m.val]) =
    (decide (e = .tx) && s.txMoved[m.val] && !decide (e = d ∧ m = n)) := by
  cases e with
  | rx => rfl
  | tx =>
    have same : (stopped s .rx n).txMoved = s.txMoved := rfl
    have still : (stopped s .tx n).txMoved = s.txMoved.set n.val false := rfl
    cases d with
    | rx => simp [same]
    | tx => by_cases hm : m = n <;> simp [still, lane_set_get, hm]

theorem laneRegs_stopped (legal : hasReserved s.cfg (s.bank d).en = false) : laneRegs (stopped s d n) e m =
    if e = d ∧ m = n then { laneRegs s d n with
      enabled := false, hw := 0, sw := 0, base := s.buf d n, moved := false,
      chan := { stoppedChan d (s.chan d n) with run := .idle } }
    else laneRegs s e m := by
  have buf : (stopped s d n).buf e m = s.buf e m := by cases d <;> cases e <;> rfl
  by_cases he : e = d
  · subst he
    by_cases hm : m = n
    · subst hm
      simp [laneRegs, laneEnabled, stopped_bank, stopped_moved, buf]
    · simp [laneRegs, laneEnabled, stopped_bank, stopped_moved, buf, hm, lane_set_other, stopped_chan_get,
        testLane_withoutLaneBit_legal legal]
  · simp [laneRegs, laneEnabled, stopped_bank_other s n he, stopped_moved, buf, he, stopped_chan_get]

theorem laneRegs_setChan (c : Chan) : laneRegs (s.setChan d n c) e m =
    if e = d ∧ m = n then { laneRegs s d n with chan := c } else laneRegs s e m := by
  by_cases h : e = d ∧ m = n
  · obtain ⟨rfl, rfl⟩ := h
    simp [laneRegs]
  · simp [laneRegs, setChan_chan, h]

theorem laneRegs_quieted (legal : hasReserved s.cfg (s.bank d).en = false) : laneRegs (quieted s d n) e m =
    if e = d ∧ m = n then { laneRegs s d n with enabled := false } else laneRegs s e m := by
  by_cases he : e = d
  · subst he
    by_cases hm : m = n <;>
      simp [laneRegs, laneEnabled, quieted, hm, testLane_withoutLaneBit_legal legal]
  · simp [laneRegs, laneEnabled, quieted, withEn_bank_other _ d _ he, he]

theorem laneRegs_acknowledged : laneRegs (s.withIsr d (writeOneToClear (s.bank d).isr (laneBit n))) e m =
    if e = d ∧ m = n then { laneRegs s d n with status := false } else laneRegs s e m := by
  by_cases he : e = d
  · subst he
    by_cases hm : m = n <;> simp [laneRegs, laneEnabled, hm]
  · simp [laneRegs, laneEnabled, withIsr_bank_other s d _ he, he]

@[simp] theorem laneRegs_setHist (h : List Event) : laneRegs (s.setHist h) e m = laneRegs s e m := by
  simp [laneRegs, laneEnabled]

theorem laneRegs_completedLane (legal : hasReserved s.cfg (s.bank d).en = false) : laneRegs (completedLane s d n) e m =
    if e = d ∧ m = n then { servicedRegs s d n with status := testLane (s.bank d).isr n } else laneRegs s e m := by
  cases corrupt : corruptCompletion s d n with
  | true =>
    have armed := enabled_of_corrupt corrupt
    rw [completedLane_corrupt corrupt, laneRegs_stopped legal]
    simp [laneRegs, servicedRegs, completionEntry, armed, corrupt]
  | false =>
    cases armed : enabled s d n with
    | true =>
      rw [completedLane_armed armed corrupt, laneRegs_setChan]
      simp [laneRegs, servicedRegs, completionEntry, armed, corrupt]
    | false =>
      rw [completedLane_disabled armed, laneRegs_setChan, laneRegs_quieted legal, laneRegs_quieted legal]
      by_cases h : e = d ∧ m = n <;> simp [h, laneRegs, servicedRegs, completionEntry, armed, corrupt]

/-- One lane is serviced; the others keep everything. -/
theorem laneRegs_servicedLane (legal : hasReserved s.cfg (s.bank d).en = false) : laneRegs (servicedLane s d n) e m =
    if e = d ∧ m = n then servicedRegs s e m else laneRegs s e m := by
  have same (v : Word) : servicedRegs (s.withIsr d v) d n = servicedRegs s d n := by cases d <;> rfl
  rw [servicedLane, laneRegs_setHist, laneRegs_completedLane (by simpa using legal), laneRegs_acknowledged, same]
  by_cases h : e = d ∧ m = n
  · obtain ⟨rfl, rfl⟩ := h
    simp [servicedRegs]
  · simp [h]

/-- Only the STOP sequence writes a reset register; it leaves no reset bit (R104 PULSE). -/
theorem servicedLane_rst (s : State) (d e : Dir) (n : Lane) : ((servicedLane s d n).bank e).rst =
    if e = d ∧ corruptCompletion s d n = true then 0 else (s.bank e).rst := by
  rw [servicedLane, setHist_bank, completedLane, corruptCompletion_withIsr]
  cases corrupt : corruptCompletion s d n with
  | true =>
    by_cases he : e = d
    · subst he; simp [stopped_bank]
    · simp [he, stopped_bank_other _ n he]
  | false => cases armed : enabled (s.withIsr d (writeOneToClear (s.bank d).isr (laneBit n))) d n <;> simp [quieted]

end

/-! ### The pending lanes of a direction, one after another -/

/-- DISPATCH went through the lanes `l` of direction `d`. -/
structure Serviced (d : Dir) (l : List Lane) (s t : State) : Prop where
  still : Still t
  bystanders : bystanders t = bystanders s
  hist : t.hist = s.hist ++ l.flatMap (completionEvents s d)
  regs : ∀ e m, laneRegs t e m = if e = d ∧ m ∈ l then servicedRegs s e m else laneRegs s e m
  rst : ∀ e, (t.bank e).rst = if e = d ∧ ∃ n ∈ l, corruptCompletion s d n = true then 0 else (s.bank e).rst

section
variable {s t : State} {d : Dir} {l : List Lane}

theorem Serviced.cfg (h : Serviced d l s t) : t.cfg = s.cfg := bystanders_cfg h.bystanders

/-- No enable bit of a lane that does not exist gets set. -/
theorem Serviced.legal (h : Serviced d l s t) {e : Dir} (legal : hasReserved s.cfg (s.bank e).en = false) :
    hasReserved t.cfg (t.bank e).en = false := by
  rw [h.cfg, hasReserved_eq_false]
  intro m hm
  have off : laneEnabled s e m = false := hasReserved_eq_false.mp legal m hm
  have after : laneEnabled t e m = _ := congrArg LaneRegs.enabled (h.regs e m)
  refine after.trans ?_
  split
  · obtain ⟨rfl, -⟩ := ‹_ ∧ _›
    simp [servicedRegs, off]
  · exact off

theorem Serviced.refl (h : Still s) : Serviced d [] s s :=
  ⟨h, rfl, by simp, fun e m => by simp, fun e => by simp⟩

theorem Serviced.one {n : Lane} (h : Still s) (legal : hasReserved s.cfg (s.bank d).en = false) :
    Serviced d [n] s (servicedLane s d n) where
  still := still_servicedLane h d n
  bystanders := bystanders_servicedLane s d n
  hist := by simp [servicedLane]
  regs e m := by simp [laneRegs_servicedLane legal]
  rst e := by simp [servicedLane_rst]

/-- Different lanes do not see each other's completion. -/
theorem Serviced.cons {n : Lane} {u : State} (h : Serviced d [n] s t) (k : Serviced d l t u) (new : n ∉ l) :
    Serviced d (n :: l) s u := by
  have others (m : Lane) (hm : m ∈ l) := completion_congr h.cfg (d := d) (n := m) (by
    have hne : m ≠ n := fun e => new (e ▸ hm)
    simp [h.regs, hne])
  refine ⟨k.still, k.bystanders.trans h.bystanders, ?_, fun e m => ?_, fun e => ?_⟩
  · have events : l.flatMap (completionEvents t d) = l.flatMap (completionEvents s d) :=
      List.flatMap_congr fun m hm => (others m hm).events
    simp [k.hist, h.hist, events]
  · rw [k.regs, h.regs]
    by_cases he : e = d
    · subst he
      by_cases hm : m ∈ l
      · simp [hm, (others m hm).regs]
      · simp [hm]
    · simp [he]
  · have corrupt : (∃ m ∈ l, corruptCompletion t d m = true) ↔ ∃ m ∈ l, corruptCompletion s d m = true :=
      exists_congr fun m => and_congr_right fun hm => by rw [(others m hm).corrupt]
    rw [k.rst, h.rst]
    by_cases he : e = d
    · by_cases first : corruptCompletion s d n = true <;> simp [he, corrupt, first]
    · simp [he]

theorem serviceLanes_run (hs : Still s) (legal : hasReserved s.cfg (s.bank d).en = false) (nodup : l.Nodup)
    (lanes : ∀ n ∈ l, s.cfg.hasLane n = true)
    (hal : ∀ n ∈ l, corruptCompletion s d n = true → aligned s.cfg (s.buf d n) = true) :
    ∃ t, (forEach l (acknowledge d)).run s = .ok () t ∧ Serviced d l s t := by
  induction l generalizing s with
  | nil => exact ⟨s, rfl, .refl hs⟩
  | cons n l ih =>
    obtain ⟨new, nodup⟩ := List.nodup_cons.mp nodup
    obtain ⟨hn, lanes⟩ := List.forall_mem_cons.mp lanes
    obtain ⟨hal, rest⟩ := List.forall_mem_cons.mp hal
    have one : Serviced d [n] s (servicedLane s d n) := .one hs legal
    obtain ⟨t, run, serviced⟩ := ih one.still (one.legal legal) nodup (by simpa [one.cfg] using lanes) fun m hm => by
      have hne : m ≠ n := fun e => new (e ▸ hm)
      have regs : laneRegs (servicedLane s d n) d m = laneRegs s d m := by simp [one.regs, hne]
      have buf : (servicedLane s d n).buf d m = s.buf d m := congrArg LaneRegs.buf regs
      rw [(completion_congr one.cfg regs).corrupt, buf, one.cfg]
      exact rest m hm
    exact ⟨t, run_seq (hs.acknowledge_run hn hal) run, one.cons serviced new⟩

end
end Sys2Proof.Machine
end

section
/-! DISPATCH as a whole (44_dispatcher R280 to R288). -/

namespace Sys2Proof.Machine

/-! ### After the two status words are read -/

/-- The rest of DISPATCH, the snapshots read and their reserved bits logged (R280). -/
def serviceSnapshots (c : Params) (tx rx : Word) : Op Ret := letI := opMonad; do
  if tx &&& laneMask c = 0 ∧ rx &&& laneMask c = 0 then do
    emit (.anomaly .spuriousInterrupt none none)
    pure (okValue 0)
  else do
    forEach c.lanes (serviceLane .tx tx)
    forEach c.lanes (serviceLane .rx rx)
    pure (okValue 1)

theorem dispatchBody_eq : dispatchBody = params.bind fun c => (ld32 (.isr .tx)).bind fun tx =>
    (ld32 (.isr .rx)).bind fun rx => (logReserved c .tx tx).bind fun _ => (logReserved c .rx rx).bind fun _ =>
      serviceSnapshots c tx rx := rfl

/-- A loop skips the rounds that do nothing. -/
theorem forEach_opWhen {ι : Type} (p : ι → Bool) (f : ι → Op Unit) (l : List ι) :
    forEach l (fun a => opWhen (p a) (f a)) = forEach (l.filter p) f := by
  induction l with
  | nil => rfl
  | cons a l ih =>
    cases h : p a with
    | false =>
      rw [List.filter_cons_of_neg (by simp [h]), ← ih]
      simp [forEach, h, Op.bind]
    | true =>
      rw [List.filter_cons_of_pos h]
      simp [forEach, h, ih]

theorem forEach_congr {ι : Type} {f g : ι → Op Unit} {l : List ι} (h : ∀ a ∈ l, f a = g a) :
    forEach l f = forEach l g := by
  induction l with
  | nil => rfl
  | cons a l ih =>
    simp only [forEach, h a List.mem_cons_self, ih fun b hb => h b (List.mem_cons_of_mem a hb)]

section
variable {s : State} {d e : Dir} {n m : Lane}

/-- The snapshot of a status register, whatever its reserved bits were drawn as (R38). -/
theorem testLane_snapshot (r : Word) (hn : s.cfg.hasLane n = true) :
    testLane (maskedRead s.cfg (s.bank d).isr r) n = sourcePending s d n := by
  simp [testLane_maskedRead, sourcePending, hn]

theorem snapshot_empty (r : Word) : maskedRead s.cfg (s.bank d).isr r &&& laneMask s.cfg = 0 ↔
    ∀ n, sourcePending s d n = false := by
  rw [maskedRead_and_laneMask, and_laneMask_eq_zero]
  simp only [sourcePending, Bool.and_eq_false_imp]

theorem forEach_serviceLane (r : Word) : forEach s.cfg.lanes (serviceLane d (maskedRead s.cfg (s.bank d).isr r)) =
    forEach (pendingLanes s d) (acknowledge d) := by
  rw [pendingLanes, ← forEach_opWhen]
  exact forEach_congr fun n hn => by rw [serviceLane, testLane_snapshot r (mem_lanes.mp hn)]

/-- With no lane pending the interrupt is spurious (R280). -/
theorem serviceSnapshots_spurious (r r' : Word) (idle : ∀ d n, sourcePending s d n = false) :
    serviceSnapshots s.cfg (maskedRead s.cfg (s.bank .tx).isr r) (maskedRead s.cfg (s.bank .rx).isr r') =
      (emit (.anomaly .spuriousInterrupt none none)).bind fun _ => .done (okValue 0) :=
  if_pos ⟨(snapshot_empty r).mpr (idle .tx), (snapshot_empty r').mpr (idle .rx)⟩

/-- Otherwise all pending lanes are serviced (R281). -/
theorem serviceSnapshots_pending (r r' : Word) (pending : ∃ d n, sourcePending s d n = true) :
    serviceSnapshots s.cfg (maskedRead s.cfg (s.bank .tx).isr r) (maskedRead s.cfg (s.bank .rx).isr r') =
      (forEach (pendingLanes s .tx) (acknowledge .tx)).bind fun _ =>
        (forEach (pendingLanes s .rx) (acknowledge .rx)).bind fun _ => .done (okValue 1) := by
  rw [← forEach_serviceLane r, ← forEach_serviceLane r']
  refine if_neg fun ⟨tx, rx⟩ => ?_
  obtain ⟨d, n, hp⟩ := pending
  cases d
  · rw [(snapshot_empty r).mp tx n] at hp; cases hp
  · rw [(snapshot_empty r').mp rx n] at hp; cases hp

theorem mem_pendingLanes : n ∈ pendingLanes s d ↔ sourcePending s d n = true := by
  simp only [pendingLanes, List.mem_filter, mem_lanes, and_iff_right_iff_imp, sourcePending, Bool.and_eq_true]
  exact And.left

theorem nodup_pendingLanes (s : State) (d : Dir) : (pendingLanes s d).Nodup := (nodup_lanes s.cfg).filter _

/-- One lane is pending, and no other. -/
theorem pendingLanes_only (only : ∀ e m, sourcePending s e m = true ↔ e = d ∧ m = n) (e : Dir) :
    pendingLanes s e = if e = d then [n] else [] := by
  have mem (m : Lane) : m ∈ pendingLanes s e ↔ e = d ∧ m = n := mem_pendingLanes.trans (only e m)
  by_cases he : e = d
  · rw [if_pos he, ← List.perm_singleton,
      List.perm_ext_iff_of_nodup (nodup_pendingLanes s e) (List.nodup_singleton n)]
    exact fun m => (mem m).trans (by simp [he])
  · rw [if_neg he, List.eq_nil_iff_forall_not_mem]
    exact fun m hm => he ((mem m).mp hm).1

/-! ### DISPATCH with no lane agent scheduled -/

/-- The two status words read, their reserved bits logged (R285). -/
def snapshotsTaken (s : State) : State :=
  (dropReserved (dropReserved s)).setHist (s.hist ++ reservedEvents s)

theorem still_snapshotsTaken (h : Still s) : Still (snapshotsTaken s) := ⟨h.sched, h.cur, h.seen⟩

theorem run_then {α β : Type} {x : Op α} {f : α → Op β} {t : State} {a : α} (h : x.run s = .ok a t) :
    (x.bind f).run s = (f a).run t := by rw [run_bind, h]

theorem logReserved_run (h : Still s) {c : Params} (hc : s.cfg = c) (a r : Word) :
    (logReserved c d (maskedRead c a r)).run s = .ok () (s.setHist
      (s.hist ++ if hasReserved c r = true then [.anomaly .reservedStatusBit (some d) none] else [])) := by
  subst hc
  cases hr : hasReserved s.cfg r <;>
    simp [logReserved, hr, boundary_still h.sched h.cur, log_eq_setHist, setHist_self]

theorem dispatchBody_run (h : Still s) : dispatchBody.run s =
    (serviceSnapshots s.cfg (maskedRead s.cfg (s.bank .tx).isr (nextReserved s))
      (maskedRead s.cfg (s.bank .rx).isr (nextReserved (dropReserved s)))).run (snapshotsTaken s) := by
  have read (d : Dir) {t : State} (ht : Still t) : (ld32 (.isr d)).run t =
      .ok (maskedRead t.cfg (t.bank d).isr (nextReserved t)) (dropReserved t) := by
    rw [ld32_isr, boundary_still ht.sched ht.cur]
  have first : Still (dropReserved s) := ⟨h.sched, h.cur, h.seen⟩
  have second : Still (dropReserved (dropReserved s)) := ⟨h.sched, h.cur, h.seen⟩
  rw [dispatchBody_eq, run_then (params_run s), run_then (read .tx h), run_then (read .rx first), dropReserved_cfg,
    dropReserved_bank, run_then (logReserved_run (c := s.cfg) second rfl _ _),
    run_then (logReserved_run (c := s.cfg) (second.setHist _) rfl _ _),
    setHist_hist, setHist_setHist, List.append_assoc]
  rfl

/-- DISPATCH's answer where no lane agent is scheduled is its body's, run with no command noted. -/
theorem exec_dispatch_quiet (ha : s.attached = true) :
    exec .dispatch s = finished .dispatch (dispatchBody.run (quietPart s)) :=
  (attachedProgram_run ha).trans (finished_congr tame_dispatchBody rfl)

theorem finished_still {i : Instr} {r : Ret} (h : Still s) : finished i (.ok r s) = .next (endCommand i r s) := by
  rw [finished_ok, boundary_still h.sched h.cur]

theorem sourcePending_quietPart : sourcePending (quietPart s) d n = sourcePending s d n := by cases d <;> rfl

end

/-- Settles O49: both snapshots show no lane, so nothing is acknowledged. -/
theorem dispatchSpurious : Obligations.DispatchSpurious := by
  intro s ha hs idle
  have still := still_quietPart hs
  have taken := still_snapshotsTaken still
  have events : reservedEvents s =
      (if nextReserved s &&& ~~~laneMask s.cfg = 0 then [] else [.anomaly .reservedStatusBit (some .tx) none]) ++
      (if nextReserved (dropReserved s) &&& ~~~laneMask s.cfg = 0 then []
        else [.anomaly .reservedStatusBit (some .rx) none]) := by
    simp [reservedEvents, hasReserved, ite_not]
  rw [exec_dispatch_quiet ha, dispatchBody_run still, serviceSnapshots_spurious _ _ fun d n =>
    sourcePending_quietPart.trans (idle d n), run_then (emit_run _ _), boundary_still taken.sched taken.cur, run_done,
    finished_still (taken.log _), List.append_assoc s.hist, ← events]
  rfl

/-- Where one lane is pending and no other, it is serviced. -/
theorem serviceSnapshots_only {s t : State} {d : Dir} {n : Lane} (r r' : Word)
    (only : ∀ e m, sourcePending s e m = true ↔ e = d ∧ m = n) : (serviceSnapshots s.cfg
      (maskedRead s.cfg (s.bank .tx).isr r) (maskedRead s.cfg (s.bank .rx).isr r')).run t =
      ((acknowledge d n).bind fun _ => .done (okValue 1)).run t := by
  rw [serviceSnapshots_pending r r' ⟨d, n, (only d n).mpr ⟨rfl, rfl⟩⟩, pendingLanes_only only, pendingLanes_only only]
  cases d <;> simp [forEach] <;> cases (acknowledge _ n).run t <;> rfl

theorem servicedLane_disabled {s : State} {d : Dir} {n : Lane} (off : enabled s d n = false) : servicedLane s d n =
    (((dropReserved s).setBank d { s.bank d with
        isr := (s.bank d).isr &&& ~~~laneBit n, en := withoutLaneBit s.cfg (s.bank d).en n }).setChan d n
      (resyncedEntry s d n)).setHist (s.hist ++ [.anomaly .disabledLaneCompletion (some d) (some n)]) := by
  have events : completionEvents s d n = [.anomaly .disabledLaneCompletion (some d) (some n)] := by
    simp [completionEvents, off]
  have entry (v : Word) : resyncedEntry (s.withIsr d v) d n = resyncedEntry s d n := by cases d <;> rfl
  rw [servicedLane, completedLane_disabled (by simpa [enabled] using off), entry, events]
  cases d <;> rfl

/-- Settles O52: the one pending lane is serviced, and `COMPLETE` finds it not `Armed`. -/
theorem disabledLaneCompletionIsAbsorbed : Obligations.DisabledLaneCompletionIsAbsorbed := by
  intro s d n ha hs off only resync
  have still := still_quietPart hs
  have taken := still_snapshotsTaken still
  have pending := (only d n).mpr ⟨rfl, rfl⟩
  have lane : s.cfg.hasLane n = true := mem_lanes.mp (List.mem_filter.mp (mem_pendingLanes.mpr pending)).1
  have bank : (snapshotsTaken (quietPart s)).bank d = s.bank d := by simp [snapshotsTaken]
  have chan : (snapshotsTaken (quietPart s)).chan d n = s.chan d n := by simp [snapshotsTaken]
  have disabled : enabled (snapshotsTaken (quietPart s)) d n = false := by simp [enabled, chan, off]
  have inRange := not_corrupt_of_disabled disabled
  have entry : resyncedEntry (snapshotsTaken (quietPart s)) d n = if resync = true then { s.chan d n with
      head := (s.bank d).hw[n.val].toNat, tail := (s.bank d).hw[n.val].toNat } else s.chan d n := by
    simp only [resync, decide_eq_true_eq, resyncedEntry, bank, chan]
    rfl
  rw [exec_dispatch_quiet ha, dispatchBody_run still, serviceSnapshots_only _ _ fun e m =>
    sourcePending_quietPart ▸ (only e m), run_then (taken.acknowledge_run lane (by simp [inRange])), run_done,
    finished_still (still_servicedLane taken d n), servicedLane_disabled disabled, entry, bank]
  cases d <;> rfl

end Sys2Proof.Machine
end

section
/-! DISPATCH services every pending lane of both directions (44_dispatcher R280, R281). -/

namespace Sys2Proof.Machine

section
variable {s t : State} {d e : Dir} {n m : Lane}

/-- A state put together from what DISPATCH never writes of `s` and what else there is of `t`. -/
def withBystanders (t s : State) : State :=
  { s with
    tx := { t.tx with ier := s.tx.ier }
    rx := { t.rx with ier := s.rx.ier }
    txMoved := t.txMoved
    txChan := t.txChan
    rxChan := t.rxChan
    draws := t.draws
    cur := t.cur
    seen := t.seen
    hist := t.hist }

theorem withBystanders_eq (h : bystanders t = bystanders s) : withBystanders t s = t := by
  have part (u : State) : withBystanders t (bystanders u) = withBystanders t u := rfl
  rw [← part, ← h, part]
  rfl

theorem sourcePending_congr (cfg : t.cfg = s.cfg) (h : laneRegs t d n = laneRegs s d n) :
    sourcePending t d n = sourcePending s d n := by
  have status : testLane (t.bank d).isr n = testLane (s.bank d).isr n := congrArg LaneRegs.status h
  simp only [sourcePending, cfg, status]

/-- What the two loops of DISPATCH leave, the lanes of both directions together; `before` is the history before. -/
structure AllServiced (before : List Event) (s t : State) : Prop where
  still : Still t
  bystanders : bystanders t = bystanders s
  hist : t.hist = before ++ (pendingLanes s .tx).flatMap (completionEvents s .tx) ++
    (pendingLanes s .rx).flatMap (completionEvents s .rx)
  legal : ∀ d, hasReserved s.cfg (t.bank d).en = false
  regs : ∀ d n, laneRegs t d n = if sourcePending s d n = true then servicedRegs s d n else laneRegs s d n
  rst : ∀ d, (t.bank d).rst =
    if ∃ n, sourcePending s d n = true ∧ corruptCompletion s d n = true then 0 else (s.bank d).rst

/-- The registers and entries of the lanes are all that decides. -/
theorem AllServiced.congr {before : List Event} {u : State} (h : AllServiced before t u)
    (same : Machine.bystanders t = Machine.bystanders s) (regs : ∀ d n, laneRegs t d n = laneRegs s d n)
    (rst : ∀ d, (t.bank d).rst = (s.bank d).rst) : AllServiced before s u := by
  have cfg : t.cfg = s.cfg := bystanders_cfg same
  have pending (d : Dir) (n : Lane) := sourcePending_congr cfg (regs d n)
  have lanes (d : Dir) : pendingLanes t d = pendingLanes s d := by
    rw [pendingLanes, pendingLanes, cfg, funext (pending d)]
  have events (d : Dir) : completionEvents t d = completionEvents s d :=
    funext fun n => (completion_congr cfg (regs d n)).events
  refine ⟨h.still, h.bystanders.trans same, ?_, fun d => cfg ▸ h.legal d, fun d n => ?_, fun d => ?_⟩
  · rw [h.hist, lanes, lanes, events, events]
  · rw [h.regs, pending, regs, (completion_congr cfg (regs d n)).regs]
  · rw [h.rst, rst]
    simp only [pending, (completion_congr cfg (regs d _)).corrupt]

theorem serviceAll_run (h : Still s) (legal : ∀ d, hasReserved s.cfg (s.bank d).en = false)
    (hal : ∀ d n, sourcePending s d n = true → corruptCompletion s d n = true → aligned s.cfg (s.buf d n) = true) :
    ∃ t, ((forEach (pendingLanes s .tx) (acknowledge .tx)).bind fun _ =>
        (forEach (pendingLanes s .rx) (acknowledge .rx)).bind fun _ => .done (okValue 1)).run s =
      .ok (okValue 1) t ∧ AllServiced s.hist s t := by
  have lanes {d : Dir} {n : Lane} (hn : n ∈ pendingLanes s d) : s.cfg.hasLane n = true :=
    mem_lanes.mp (List.mem_filter.mp hn).1
  obtain ⟨u, runTx, tx⟩ := serviceLanes_run h (legal .tx) (nodup_pendingLanes s .tx) (fun _ => lanes) fun n hn =>
    hal .tx n (mem_pendingLanes.mp hn)
  have rxRegs (n : Lane) : laneRegs u .rx n = laneRegs s .rx n := by simp [tx.regs]
  have same (n : Lane) := completion_congr tx.cfg (rxRegs n)
  obtain ⟨t, runRx, rx⟩ := serviceLanes_run (l := pendingLanes s .rx) tx.still (tx.legal (legal .rx))
    (nodup_pendingLanes s .rx) (fun n hn => by rw [tx.cfg]; exact lanes hn) fun n hn => by
      have buf : u.buf .rx n = s.buf .rx n := congrArg LaneRegs.buf (rxRegs n)
      rw [(same n).corrupt, tx.cfg, buf]
      exact hal .rx n (mem_pendingLanes.mp hn)
  refine ⟨t, run_seq runTx (run_seq runRx rfl), rx.still, rx.bystanders.trans tx.bystanders, ?_, ?_, ?_, ?_⟩
  · have events : (pendingLanes s .rx).flatMap (completionEvents u .rx) =
        (pendingLanes s .rx).flatMap (completionEvents s .rx) := List.flatMap_congr fun n _ => (same n).events
    rw [rx.hist, tx.hist, events]
  · intro d
    have := rx.legal (tx.legal (legal d))
    rwa [rx.cfg, tx.cfg] at this
  · intro d n
    rw [rx.regs, tx.regs]
    cases d
    · simp [mem_pendingLanes]
    · simp [mem_pendingLanes, (same n).regs]
  · intro d
    rw [rx.rst, tx.rst]
    cases d
    · simp [mem_pendingLanes]
    · simp [mem_pendingLanes, (same _).corrupt]

/-- DISPATCH with some lane pending and no lane agent scheduled. -/
theorem exec_dispatch_pending (ha : s.attached = true) (hs : s.sched = [])
    (pending : ∃ d n, sourcePending s d n = true)
    (legal : ∀ d, hasReserved s.cfg (s.bank d).en = false)
    (hal : ∀ d n, sourcePending s d n = true → corruptCompletion s d n = true → aligned s.cfg (s.buf d n) = true) :
    ∃ u, exec .dispatch s = .next (endCommand .dispatch (okValue 1) u) ∧
      AllServiced (s.hist ++ reservedEvents s) s u := by
  have still := still_quietPart hs
  let a := snapshotsTaken (quietPart s)
  have bank (d : Dir) : a.bank d = s.bank d := by simp [a, snapshotsTaken]
  have regs (d : Dir) (n : Lane) : laneRegs a d n = laneRegs s d n := by cases d <;> rfl
  have same (d : Dir) (n : Lane) := completion_congr (s := s) (t := a) rfl (regs d n)
  obtain ⟨u, run, serviced⟩ := serviceAll_run (s := a) (still_snapshotsTaken still)
    (fun d => by rw [bank]; exact legal d) fun d n hp hc => by
      rw [sourcePending_congr rfl (regs d n)] at hp
      rw [(same d n).corrupt] at hc
      have buf : a.buf d n = s.buf d n := congrArg LaneRegs.buf (regs d n)
      rw [buf]
      exact hal d n hp hc
  have pending' : ∃ d n, sourcePending (quietPart s) d n = true := by
    obtain ⟨d, n, h⟩ := pending
    exact ⟨d, n, sourcePending_quietPart.trans h⟩
  refine ⟨u, ?_, serviced.congr rfl regs fun d => by rw [bank]⟩
  rw [exec_dispatch_quiet ha, dispatchBody_run still, serviceSnapshots_pending _ _ pending']
  exact (congrArg _ run).trans (finished_still serviced.still)

/-- What DISPATCH makes of any lane: it services the pending ones, and keeps the others. -/
def dispatchedRegs (s : State) (d : Dir) (n : Lane) : LaneRegs where
  status := testLane (s.bank d).isr n && !sourcePending s d n
  enabled := laneEnabled s d n && !(sourcePending s d n && (!enabled s d n || corruptCompletion s d n))
  hw := if (sourcePending s d n && corruptCompletion s d n) = true then 0 else (s.bank d).hw[n.val]
  sw := if (sourcePending s d n && corruptCompletion s d n) = true then 0 else (s.bank d).sw[n.val]
  base := if (sourcePending s d n && corruptCompletion s d n) = true then s.buf d n else (s.bank d).base[n.val]
  chan := if sourcePending s d n = true then completionEntry s d n else s.chan d n
  moved := decide (d = .tx) && s.txMoved[n.val] && !(sourcePending s d n && corruptCompletion s d n)
  buf := s.buf d n

theorem AllServiced.dispatched {before : List Event} (h : AllServiced before s t) (d : Dir) (n : Lane) :
    laneRegs t d n = dispatchedRegs s d n := by
  rw [h.regs]
  cases hp : sourcePending s d n <;> simp [servicedRegs, laneRegs, dispatchedRegs, hp]

theorem laneRegs_endCommand (i : Instr) (r : Ret) : laneRegs (endCommand i r s) d n = laneRegs s d n := by
  cases d <;> rfl

end

/-- Settles O50: what is left of each lane is `dispatchedRegs`; the rest of the state is the bystanders, the reset
registers and the history. -/
theorem dispatchServicesEveryPendingLane : Obligations.DispatchServicesEveryPendingLane := by
  intro s ha hs pending legal hal corrupt quieted
  obtain ⟨u, next, serviced⟩ := exec_dispatch_pending ha hs pending legal hal
  let t := endCommand .dispatch (okValue 1) u
  have bank (d : Dir) : t.bank d = u.bank d := endCommand_bank ..
  have same : bystanders t = bystanders s := serviced.bystanders
  have lane (d : Dir) (n : Lane) : laneRegs t d n = dispatchedRegs s d n :=
    (laneRegs_endCommand ..).trans (serviced.dispatched d n)
  have status (d : Dir) (n : Lane) : testLane (t.bank d).isr n = _ := congrArg LaneRegs.status (lane d n)
  refine ⟨t, next, (withBystanders_eq same).symm.trans ?_, fun d => ⟨?_, ?_, ?_, ?_⟩, fun d n => ⟨?_,
    congrArg LaneRegs.enabled (lane d n), congrArg LaneRegs.hw (lane d n), congrArg LaneRegs.sw (lane d n),
    congrArg LaneRegs.base (lane d n), congrArg LaneRegs.chan (lane d n)⟩, fun n => ?_⟩
  · have hist : t.hist = u.hist ++ [.result .dispatch .ok (some 1)] := rfl
    rw [withBystanders, hist, serviced.hist]
    rfl
  · rw [bank]
    exact serviced.legal d
  · refine word_ext fun n => ?_
    rw [testLane_and, testLane_and, status, testLane_not, testLane_laneMask]
    cases hn : s.cfg.hasLane n <;> simp [dispatchedRegs, sourcePending, hn]
  · rintro ⟨n, h⟩
    rw [bank, serviced.rst, if_pos ⟨n, by simpa [corrupt] using h⟩]
  · intro sound
    rw [bank, serviced.rst, if_neg fun ⟨n, hp, hc⟩ => by simpa [corrupt, hp, hc] using sound n]
  · rw [sourcePending, bystanders_cfg same, status]
    cases hn : s.cfg.hasLane n <;> simp [dispatchedRegs, sourcePending, hn]
  · have moved : (decide (Dir.tx = .tx) && t.txMoved[n.val]) = _ := congrArg LaneRegs.moved (lane .tx n)
    simpa [dispatchedRegs, corrupt] using moved

end Sys2Proof.Machine
end

section
/-! A completion that the lane agent latches between DISPATCH's acknowledgement and its read of the hardware pointer
(44_dispatcher R282). -/

namespace Sys2Proof.Machine

section
variable {s : State} {d : Dir} {n : Lane} {owner : Owner} {cb : Callback}

/-- Whenever among the steps the lane's status-set step happens, the bit is set after them (R166). -/
theorem laneSteps_latches {l : List LaneStep} (latched : LaneStep.status d n ∈ l) (active : laneActive s d n = true) :
    sourcePending (laneSteps s l) d n = true := by
  induction l generalizing s with
  | nil => cases latched
  | cons a l ih =>
    obtain rfl | later := List.mem_cons.mp latched
    · have set : sourcePending (statusStep s d n) d n = true := by
        have lane : s.cfg.hasLane n = true := by
          simp only [laneActive, Bool.and_eq_true] at active
          exact active.1.1
        rw [statusStep_active active]
        cases d <;> simp [sourcePending, State.withStill, State.withIsr, State.setBank, State.bank, lane]
      exact (laneSteps_frame l _).pending set
    · exact ih later (((laneStep_frame s a).active d n).trans active)

theorem boundary_latches {l : List LaneStep} {rest : List (List LaneStep)} (sched : s.sched = l :: rest)
    (latched : LaneStep.status d n ∈ l) (active : laneActive s d n = true) :
    sourcePending (boundary s) d n = true := by
  have regs := SameRegs.boundary sched
  have := laneSteps_latches latched active
  rwa [sourcePending, regs.cfg, regs.bank]

theorem setChan_staysPending (s : State) (e : Dir) (m : Lane) (c : Chan) : StaysPending d n s (s.setChan e m c) :=
  SameStatus.staysPending (fun _ => by rw [setChan_bank]) (setChan_cfg ..)

theorem log_staysPending (s : State) (e : Event) : StaysPending d n s (s.log e) :=
  SameStatus.staysPending (fun f => by cases f <;> rfl) rfl

/-- Where a lane's callback was invoked, its hardware pointer having been read in `s` (R283). -/
def calledBack (s : State) (d : Dir) (n : Lane) (owner : Owner) (cb : Callback) : State :=
  (boundary ((boundary s).log (.callback owner cb d n (s.bank d).hw[n.val].toNat))).setChan d n
    { s.chan d n with work := true }

theorem calledBack_work : ((calledBack s d n owner cb).chan d n).work = true := by simp [calledBack]

theorem calledBack_pending (h : sourcePending s d n = true) : sourcePending (calledBack s d n owner cb) d n = true :=
  (setChan_staysPending _ d n _).pending ((boundary_staysPending _).pending ((log_staysPending _ _).pending
    ((boundary_staysPending s).pending h)))

theorem calledBack_hist :
    Event.callback owner cb d n (s.bank d).hw[n.val].toNat ∈ (calledBack s d n owner cb).hist := by
  obtain ⟨es, grew, -⟩ := grew_boundary ((boundary s).log (.callback owner cb d n (s.bank d).hw[n.val].toNat))
  rw [calledBack, setChan_hist, grew, log_eq_setHist, setHist_hist]
  simp

/-- An owned `Armed` lane is acknowledged and then, its pointer being read in range, called back. -/
theorem acknowledge_owned {t : State}
    (ht : (boundary s).withIsr d (writeOneToClear ((boundary s).bank d).isr (laneBit n)) = t)
    (armed : (s.chan d n).run = .armed) (slot : (s.chan d n).slot = .owned owner cb)
    (inRange : ((boundary t).bank d).hw[n.val].toNat < cap s.cfg d) :
    (acknowledge d n).run s = .ok () (calledBack (boundary t) d n owner cb) := by
  subst ht
  simp [acknowledge, complete, armed, completeArmed, inRange, invokeCallback, slot, calledBack]

theorem boundary_inRange (honest : s.cfg.hwMayCorrupt = false) (h : (s.bank d).hw[n.val].toNat < cap s.cfg d) :
    ((boundary s).bank d).hw[n.val].toNat < cap s.cfg d := by
  rw [boundary, advanceCur_bank]
  exact (interleave_frame s).hwInRange honest d n h

/-- The two status words read, where neither shows a reserved bit, by whatever lane agents moved before. -/
theorem dispatchBody_unreserved (tx : hasReserved s.cfg (nextReserved s) = false)
    (rx : hasReserved s.cfg (nextReserved (dropReserved s)) = false) : dispatchBody.run s =
      (serviceSnapshots s.cfg (maskedRead s.cfg ((boundary s).bank .tx).isr (nextReserved s))
        (maskedRead s.cfg ((boundary (dropReserved (boundary s))).bank .rx).isr (nextReserved (dropReserved s)))).run
      (dropReserved (boundary (dropReserved (boundary s)))) := by
  have draw : nextReserved (dropReserved (boundary s)) = nextReserved (dropReserved s) := by simp [nextReserved]
  simp [dispatchBody_eq, draw, logReserved, tx, rx]

/-- The status words are read before the lane agents first move. -/
theorem dispatchBody_only {rest : List (List LaneStep)} (tx : hasReserved s.cfg (nextReserved s) = false)
    (rx : hasReserved s.cfg (nextReserved (dropReserved s)) = false) (sched : s.sched = [] :: [] :: rest)
    (only : ∀ e m, sourcePending s e m = true ↔ e = d ∧ m = n) : dispatchBody.run s =
      ((acknowledge d n).bind fun _ => .done (okValue 1)).run (dropReserved (boundary (dropReserved (boundary s)))) := by
  have one : Waits 1 s (dropReserved (boundary s)) :=
    (waits_boundary s).trans (waits_zero (t := dropReserved (boundary s)) rfl ⟨rfl, fun _ => dropReserved_bank ..⟩)
  obtain ⟨-, first⟩ := waits_boundary s ([] :: rest) sched
  obtain ⟨-, second⟩ := (one.trans (waits_boundary _)) rest sched
  rw [dispatchBody_unreserved tx rx, first.bank, second.bank, serviceSnapshots_only _ _ only]

end

/-- Settles O51: once acknowledged, the bit is set before the pointer is read, and no later micro-step clears it. -/
theorem lateCompletionStaysLatched : Obligations.LateCompletionStaysLatched := by
  intro s d n owner cb later rest ha honest tx rx sched latched active armed slot inRange only
  let b := beginCommand .dispatch s
  let read := dropReserved (boundary (dropReserved (boundary b)))
  let acked := (boundary read).withIsr d (writeOneToClear ((boundary read).bank d).isr (laneBit n))
  have only' : ∀ e m, sourcePending b e m = true ↔ e = d ∧ m = n := fun e m => by
    rw [← only e m]; cases e <;> rfl
  have slots : acked.sched = later :: rest := by simp [acked, read, b, sched]
  have pending : sourcePending (boundary acked) d n = true :=
    boundary_latches slots latched (by simpa [laneActive, acked, read, b] using active)
  have near : ((boundary acked).bank d).hw[n.val].toNat < cap read.cfg d := by
    have first := boundary_inRange (s := b) honest (by simpa [b] using inRange)
    have second := boundary_inRange (s := dropReserved (boundary b)) (by simpa [b] using honest) (by simpa using first)
    have third := boundary_inRange (s := read) (by simpa [read, b] using honest) (by simpa [read] using second)
    simpa [acked] using
      boundary_inRange (s := acked) (by simpa [acked, read, b] using honest) (by simpa [acked] using third)
  have run : dispatchBody.run b = .ok (okValue 1) (calledBack (boundary acked) d n owner cb) := by
    rw [dispatchBody_only (s := b) tx rx sched only', run_then (acknowledge_owned rfl (by simpa [read, b] using armed)
      (by simpa [read, b] using slot) near), run_done]
  let u := calledBack (boundary acked) d n owner cb
  have next : exec .dispatch s = .next (endCommand .dispatch (okValue 1) (boundary u)) :=
    (attachedProgram_run ha).trans (congrArg (finished .dispatch) run)
  have still : sourcePending (boundary u) d n = true := (boundary_staysPending u).pending (calledBack_pending pending)
  refine ⟨_, ((boundary acked).bank d).hw[n.val].toNat, next, ?_, ?_, ?_⟩
  · rwa [sourcePending, endCommand_cfg, endCommand_bank]
  · rw [endCommand_chan, boundary_chan, calledBack_work]
  · obtain ⟨es, grew, -⟩ := grew_boundary u
    rw [endCommand_hist, grew]
    exact List.mem_append_left _ (List.mem_append_left _ calledBack_hist)

end Sys2Proof.Machine
end

section
/-! The machine's errors (60_exceptions): a marked state takes no further step (R306, R307), and the codes of the slot,
state and operand tests (R301, R304). -/

namespace Sys2Proof.Machine

/-! ### Marked states (R306, R307) -/

section
variable {s : State}

theorem step_faulted {r : Fault} (h : s.faulted = some r) : step s = .fault r := by simp [step, h]

theorem step_refused (hf : s.faulted = none) (hr : s.refused = true) : step s = .refused .refusalMarked := by
  simp [step, hf, hr]

theorem settle_fault {r : Fault} (h : step s = .fault r) : settle s = { s with faulted := some r } := by
  simp [settle, h]

theorem settle_refused {r : Refusal} (h : step s = .refused r) : settle s = { s with refused := true } := by
  simp [settle, h]

end

/-- Settles O9: the marks are looked at before anything else, and `settle` sets the mark that is already there. -/
theorem markedStatesTakeNoStep : Obligations.MarkedStatesTakeNoStep := by
  refine fun s => ⟨fun r faulted => ⟨step_faulted faulted, ?_⟩, fun unfaulted refused =>
    ⟨⟨_, step_refused unfaulted refused⟩, ?_⟩⟩
  · rw [settle_fault (step_faulted faulted)]
  · rw [settle_refused (step_refused unfaulted refused)]

/-! ### Bodies that answer an error in the state they began in (R303) -/

section
variable {s : State} {d : Dir} {n : Lane}

theorem claimRxBody_busy (owner : Owner) (cb : Callback) (owned : (s.chan .rx n).slot.isOwned = true) :
    (claimRxBody owner cb n).run s = .ok (errRet .busy) s := by
  simp [claimRxBody, owned]

theorem claimTxBody_busy (owner : Owner) (cb : Callback) (addr : Word)
    (owned : (s.chan .tx n).slot.isOwned = true) :
    (claimTxBody owner cb addr n).run s = .ok (errRet .busy) s := by
  simp [claimTxBody, owned]

theorem triggerBody_free (free : (s.chan d n).slot = .free) :
    (triggerBody d n).run s = .ok (errRet .notOwned) s := by
  simp [triggerBody, not_owned_of_free free]

theorem triggerBody_armed (owned : (s.chan d n).slot.isOwned = true) (armed : (s.chan d n).run = .armed) :
    (triggerBody d n).run s = .ok (errRet .alreadyOwned) s := by
  simp [triggerBody, owned, armed, triggerOwned]

theorem pauseBody_notArmed (notArmed : (s.chan d n).run ≠ .armed) :
    (pauseBody d n).run s = .ok (errRet .invalidState) s := by
  simp [pauseBody, notArmed]

theorem releaseBody_free (free : (s.chan d n).slot = .free) :
    (releaseBody d n).run s = .ok (errRet .notOwned) s := by
  simp [releaseBody, not_owned_of_free free]

theorem updswBody_free (v : Word) (free : (s.chan d n).slot = .free) :
    (updswBody d v n).run s = .ok (errRet .notOwned) s := by
  simp [updswBody, not_owned_of_free free]

theorem updswBody_outOfRange {v : Word} (owned : (s.chan d n).slot.isOwned = true) (hv : cap s.cfg d ≤ v.toNat) :
    (updswBody d v n).run s = .ok (errRet .invalidPointer) s := by
  simp [updswBody, owned, not_lt.mpr hv]

theorem txprodBody_free (count : Nat) (data : List Byte) (free : (s.chan .tx n).slot = .free) :
    (txprodBody count data n).run s = .ok (errRet .notOwned) s := by
  simp [txprodBody, not_owned_of_free free]

end

/-- Settles O25: each test comes before the body's first access, so the answer is all that the command does. -/
theorem errorCodesOfCommands : Obligations.ErrorCodesOfCommands := by
  intro s f n d owner cb v count data ha hn
  refine ⟨fun owned => ?claimRx, fun owned => ?claimTx, fun free => ⟨?trigger, ?release, ?updsw⟩,
    fun free => ?txprod, fun owned armed => ?armed, fun notArmed => ?pause, fun owned range => ?invalidPointer⟩
  case claimRx => exact exec_lane_answered rfl ha hn (claimRxBody_busy owner cb owned)
  case claimTx => exact exec_lane_answered rfl ha hn (claimTxBody_busy owner cb v owned)
  case trigger => exact exec_lane_answered rfl ha hn (triggerBody_free (by simpa using free))
  case release => exact exec_lane_answered rfl ha hn (releaseBody_free (by simpa using free))
  case updsw => exact exec_lane_answered rfl ha hn (updswBody_free v (by simpa using free))
  case txprod => exact exec_lane_answered rfl ha hn (txprodBody_free count data free)
  case armed => exact exec_lane_answered rfl ha hn (triggerBody_armed (by simpa using owned) (by simpa using armed))
  case pause => exact exec_lane_answered rfl ha hn (pauseBody_notArmed (by simpa using notArmed))
  case invalidPointer => exact exec_lane_answered rfl ha hn (updswBody_outOfRange (by simpa using owned) range)

end Sys2Proof.Machine
end

section
/-! ATTACH establishes the invariants of R49 (70_reset_and_hazards R341): where it completes, its checks have passed, so
the receive rings are as R49's states need them; the rest it writes itself. -/

namespace Sys2Proof.Machine

section
variable {c : Params} {s : State}

/-- The receive ring of lane `n` passes its checks (R192). -/
def ringAdmitted (c : Params) (n : Lane) : Bool :=
  aligned c c.rxBufPhys[n.val] && belowTop c .rx c.rxBufPhys[n.val]

theorem receiveRingsOk_iff : receiveRingsOk c = true ↔
    (∀ n ∈ c.lanes, ringAdmitted c n = true) ∧ pairwiseDisjoint (windowRegion c :: rxRegions c) = true := by
  simp only [receiveRingsOk, ringAdmitted, Bool.and_eq_true, List.all_eq_true]

/-- A ring's checks stop, or have found it in order. -/
theorem attachCheckRing_admits {n : Lane} :
    (attachCheckRing c n).ensures (fun _ => True) s fun _ _ => ringAdmitted c n = true :=
  ensures_bind.mpr (ensures_faultIf (fun _ => trivial) fun hal => ensures_faultIf (fun _ => trivial) fun top =>
    Bool.and_eq_true_iff.mpr ⟨by simpa using hal, by simpa using top⟩)

/-- ATTACH's checks stop, or have found every receive ring in order: the converse of `attachChecks_passes`. -/
theorem attachChecks_admits : (attachChecks c).ensures (fun _ => True) s fun _ _ => receiveRingsOk c = true := by
  have rings : (forEach c.lanes (attachCheckRing c)).ensures (fun _ => True) s fun _ _ =>
      ∀ n ∈ c.lanes, ringAdmitted c n = true :=
    ensures_forEach (fun done _ => ∀ n ∈ done, ringAdmitted c n = true) c.lanes [] s nofun
      fun n _ done t checked => ensures_mono attachCheckRing_admits fun _ _ passed m hm => by
        obtain hm | hm := List.mem_append.mp hm
        · exact checked m hm
        · rwa [List.mem_singleton.mp hm]
  exact ensures_bind.mpr (ensures_mono rings fun _ t checked => ensures_faultIf (fun _ => trivial) fun apart =>
    receiveRingsOk_iff.mpr ⟨checked, by simpa using apart⟩)

/-- ATTACH completes only where its checks pass: the converse of `attachBody_run`. -/
theorem attachBody_admits {r : Ret} {t : State} (run : attachBody.run s = .ok r t) :
    s.attached = false ∧ receiveRingsOk s.cfg = true := by
  have admitted : attachBody.ensures (fun _ => True) s fun _ _ => s.attached = false ∧ receiveRingsOk s.cfg = true :=
    ensures_bind.mpr (ensures_params.mpr (ensures_bind.mpr (ensures_lookAttached.mpr (ensures_bind.mpr
      (ensures_faultIf (fun _ => trivial) fun ha => ensures_bind.mpr (ensures_mono attachChecks_admits fun _ _ rings =>
        ensures_of_all fun _ _ _ => ⟨ha, rings⟩))))))
  rwa [Op.ensures, run] at admitted

/-- The state that ATTACH leaves meets the invariants of R49, whatever it started from. -/
theorem AttachedFrom.disciplined {t : State} (h : AttachedFrom s t) (rings : receiveRingsOk s.cfg = true) :
    Disciplined t := by
  have vacant : ∀ d n, s.cfg.hasLane n = true → plot t d n = vacantPlot s.cfg d n := fun d n hn => by
    rw [h.plots, if_pos hn]
  exact h.settled.ready.disciplined rings (fun d n hn => congrArg LanePlot.chan (vacant d n hn))
    fun n hn => congrArg LanePlot.buf (vacant .tx n hn)

theorem attachBody_disciplined : attachBody.ensures (fun _ => True) s fun _ t => Disciplined t ∧ t.attached = true :=
  ensures_of_all fun _ _ run => by
    obtain ⟨unattached, rings⟩ := attachBody_admits run
    obtain ⟨u, run', left⟩ := attachBody_run unattached rings
    cases run'.symm.trans run
    exact ⟨left.disciplined rings, left.attached⟩

end

/-- Settles O57: `CoreInv` is kept by every instruction, and ATTACH's body establishes what `CommandInv` asks beyond
it. -/
theorem attachEstablishesDiscipline : Obligations.AttachEstablishesDiscipline := by
  intro s t hs h
  obtain ⟨next, -, -⟩ := runCommand_ensures (attachBody_disciplined (s := beginCommand .attach s))
  obtain ⟨r, u, ⟨disciplined, attached⟩, rfl⟩ := next t h
  exact ⟨commandInv_iff.mpr ⟨exec_coreInv hs h, disciplined.congr (by simp)⟩, by simpa using attached⟩

end Sys2Proof.Machine
end
